-- ==== Sys2Proof/Word.lean ====
section
/-!
DEFINITION. The words of the block and the raw form in which its environment presents an operation.
A byte is 8 bits with bit 0 the least significant (R12). The block has no signed quantity and no
arithmetic that wraps (R12, R102): lengths and indices are natural numbers.
-/

namespace Sys2Proof

/-- A byte: 8 bits, unsigned, bit 0 least significant (R12). -/
abbrev Byte := BitVec 8

/-- A glyph code: 16 bits, two frame bytes, high byte first (R97, R101). -/
abbrev Code := BitVec 16

/-- An offset of the frame space: 0 to 19 (R60, R63). -/
abbrev Offset := Fin 20

/-- The value of all 20 bytes of RawFrame at one instant (R14 "Snapshot"). -/
abbrev Snapshot := Vector Byte 20

/-- What selects an operation: the format of its row in the opcode table, or, for the rows that have
no bit pattern (EVENT, EFFECT, SUBOP: "selection is by event or by position inside INTERPRET", D26),
the row itself. DESIGN CHOICE (log entry 15): the names stand for the table's formats and rows; no
number is given to them. -/
inductive Selector where
  | xfer          -- format XFER: the word is the declared length
  | xferBegin     -- EVENT: the word is the declared length
  | xferByte      -- EVENT: the word is the data byte
  | interpret     -- EVENT
  | reset         -- EVENT
  | frdySet       -- EFFECT
  | frdyClr       -- EFFECT
  | segdec        -- SUBOP: the word is the segment key
  | glydecU       -- SUBOP: the word is the glyph code
  | glydecP       -- SUBOP: the word is the glyph code
  | bittest       -- SUBOP: the bytes are offset, mask, then the snapshot
  | annun         -- SUBOP: the bytes are the snapshot
  | bar           -- SUBOP: the bytes are the snapshot
  | digits        -- SUBOP: the bytes are the snapshot
  | dpoints       -- SUBOP: the bytes are the snapshot
  | sign          -- SUBOP: the bytes are the snapshot
  | unit          -- SUBOP: the bytes are the snapshot
  | prefixGlyph   -- SUBOP: the bytes are the snapshot
  | frameSign     -- format FRAMEBIT, the sign field: the word is the byte at offset 16
  | frameRem      -- format FRAMEBIT, the REM field: the word is the byte at offset 16
  | glyphUnit     -- format GLYPH_UNIT: the word is the 16-bit code
  | glyphPrefix   -- format GLYPH_PREFIX: the word is the 16-bit code
  | segKey        -- format SEGKEY: the word is the 8-bit key
  deriving DecidableEq, Repr

/-- One raw operation as the environment presents it: what selects it, the word the opcode table's
match and mask are over (0 where the row has none), and the bytes that follow it. For a transfer
this is R90's pair `(len, bytes)`. -/
structure Stimulus where
  sel   : Selector
  word  : Nat
  bytes : List Byte
  deriving DecidableEq, Repr

/-- A mask that names exactly one bit of a byte (R43, R98). -/
def isSingleBit (m : Byte) : Bool :=
  [0x01#8, 0x02#8, 0x04#8, 0x08#8, 0x10#8, 0x20#8, 0x40#8, 0x80#8].contains m

end Sys2Proof
end

