-- ==== Sys2Proof/Config.lean ====
section
/-!
DEFINITION. The configuration: the six tables of R8 with the reset sentinel and the Interpreter's
policy, what makes the tables well formed (R40 to R45), the spec's example configuration CFG_EX
(95_test_vectors.md section 2) for tests, and the instrument's own tables as an opaque constant,
because their contents are not in the spec's source (R8, D16, U7).
-/

namespace Sys2Proof

/-- The special glyphs a directive can name (R34). -/
inductive SpecialGlyph where
  | omega
  | risingEdge
  | fallingEdge
  deriving DecidableEq, Repr

/-- The result of a Glyph Decoder: an exclusive three-way sum (R34, C4). `blank` is not the space
character. -/
inductive GlyphResult where
  | blank
  | literal (c : Char)
  | directive (g : SpecialGlyph)
  deriving DecidableEq, Repr

/-- The names of annunciators: the 42 identifiers of R35 in their order, and `other` for a
configuration that merges or splits them (R35, D17). -/
inductive AnnunName where
  | REM | SRQ | LSTN | TLK | ONLY | SHFT | LIM | DELTA_PCT | CAL | AX_PLUS_B | MIN | MAX | READ
  | BURST | SEQU | DELAY | ZERO | SET | TWO_WIRE | FOUR_WIRE | HF | CONTINUITY | DIODE | AC | DC
  | AC_DC | RANGE_UP | RANGE_DOWN | Z_BAR_MARKER | MAN_RANGE | SINGLE_TRIG | SPEED1 | SPEED2
  | SPEED3 | SPEED4 | FILTER | NULL | HOLD | PROBE | ZAP | SHIFT_ARROW | S_MARKER
  | other (label : String)
  deriving DecidableEq, Repr

/-- One single-bit field of the frame: a byte and a mask (R98). The offset's type keeps it within
0 to 19 (R43, R45, R63). -/
structure BitPos where
  offset : Offset
  mask   : Byte
  deriving DecidableEq, Repr

/-- One triple of ANNUN_TABLE (R43). -/
structure AnnunEntry where
  name : AnnunName
  pos  : BitPos
  deriving DecidableEq, Repr

/-- When the Interpreter runs (R8 INTERP_POLICY, R179). -/
inductive InterpPolicy where
  | polled
  | immediate
  deriving DecidableEq, Repr

/-- The six read-only tables (R8, R38). The lists are searched from the front, so a repeated key's
first entry wins (R13 `lookup`, D19). DP_TABLE has exactly 7 entries (R44) and BAR_TABLE exactly 17
(R45), by their types. -/
structure Tables where
  seg         : List (Byte × Char)
  unit        : List (Code × GlyphResult)
  prefixTable : List (Code × GlyphResult)
  annun       : List AnnunEntry
  dp          : Vector BitPos 7
  bar         : Vector BitPos 17
  deriving DecidableEq, Repr

/-- The configuration of a run (R8): constant while the block runs. -/
structure Configuration where
  resetSentinel : Byte
  policy        : InterpPolicy
  tables        : Tables
  deriving DecidableEq, Repr

/-- The results the unit table may give (R41). -/
def Config.unitResults : List GlyphResult :=
  [.literal 'V', .literal 'A', .literal '°', .literal '%',
   .directive .omega, .directive .risingEdge, .directive .fallingEdge]

/-- The results the prefix table may give (R42). -/
def Config.prefixResults : List GlyphResult :=
  [.literal 'µ', .literal 'n', .literal 'd', .literal 'k', .literal 'M', .literal 'm',
   .literal 'P', .literal 'H', .literal 'F', .literal 'B', .literal 'A', .literal 'C',
   .directive .risingEdge, .directive .fallingEdge]

/-- The characters the segment table must give some key: space and the ten digits (R40). -/
def Config.requiredChars : List Char :=
  [' ', '0', '1', '2', '3', '4', '5', '6', '7', '8', '9']

/-- SEG_TABLE is well formed (R40): 33 entries, distinct keys, bit 3 of every key clear, space and
the ten digits among the characters. -/
abbrev Tables.SegOk (t : Tables) : Prop :=
  t.seg.length = 33 ∧ (t.seg.map Prod.fst).Nodup ∧ (∀ e ∈ t.seg, e.1 &&& 0x08#8 = 0#8) ∧
    ∀ c ∈ Config.requiredChars, c ∈ t.seg.map Prod.snd

/-- UNIT_TABLE is well formed (R41): distinct keys, the two codes the source fixes, results of the
closed set. -/
abbrev Tables.UnitOk (t : Tables) : Prop :=
  (t.unit.map Prod.fst).Nodup ∧ (0x0145#16, GlyphResult.literal 'V') ∈ t.unit ∧
    (0x7007#16, GlyphResult.directive .omega) ∈ t.unit ∧ ∀ e ∈ t.unit, e.2 ∈ Config.unitResults

/-- PREFIX_TABLE is well formed (R42): distinct keys, results of the closed set. -/
abbrev Tables.PrefixOk (t : Tables) : Prop :=
  (t.prefixTable.map Prod.fst).Nodup ∧ ∀ e ∈ t.prefixTable, e.2 ∈ Config.prefixResults

/-- ANNUN_TABLE is well formed (R43): single-bit masks, at most one triple per name, and
`(REM, 16, 0x02)` among them. -/
abbrev Tables.AnnunOk (t : Tables) : Prop :=
  (t.annun.map AnnunEntry.name).Nodup ∧ (∀ e ∈ t.annun, isSingleBit e.pos.mask = true) ∧
    (⟨.REM, ⟨16, 0x02#8⟩⟩ : AnnunEntry) ∈ t.annun

/-- DP_TABLE is well formed (R44): offsets 9 to 16, single-bit masks, never REM's position. -/
abbrev Tables.DpOk (t : Tables) : Prop :=
  ∀ p : Fin 7, 9 ≤ t.dp[p].offset.val ∧ t.dp[p].offset.val ≤ 16 ∧
    isSingleBit t.dp[p].mask = true ∧ t.dp[p] ≠ ⟨16, 0x02#8⟩

/-- BAR_TABLE is well formed (R45): single-bit masks. -/
abbrev Tables.BarOk (t : Tables) : Prop :=
  ∀ j : Fin 17, isSingleBit t.bar[j].mask = true

/-- A well-formed configuration's tables (R40 to R45). R45's distinctness of all bit positions is a
sanity condition on which no rule depends; it stands apart (`Tables.DistinctBits`, log entry 19). -/
abbrev Tables.WellFormed (t : Tables) : Prop :=
  t.SegOk ∧ t.UnitOk ∧ t.PrefixOk ∧ t.AnnunOk ∧ t.DpOk ∧ t.BarOk

/-- Every bit position the tables and the sign name, in one list. -/
def Tables.bitPositions (t : Tables) : List BitPos :=
  t.annun.map AnnunEntry.pos ++ t.dp.toList ++ t.bar.toList ++ [⟨16, 0x04#8⟩, ⟨16, 0x40#8⟩]

/-- R45's sanity condition: no two entries name the same bit. -/
abbrev Tables.DistinctBits (t : Tables) : Prop :=
  t.bitPositions.Nodup

/-- A configuration consistent with §8 of the source (R46): no decimal-point bit inside a digit byte
is a bit of the key of a character '1' to '7'. -/
abbrev Tables.ConsistentWithS8 (t : Tables) : Prop :=
  ∀ p : Fin 7, 9 ≤ t.dp[p].offset.val → t.dp[p].offset.val ≤ 15 →
    ∀ e ∈ t.seg, e.2 ∈ ['1', '2', '3', '4', '5', '6', '7'] → e.1 &&& t.dp[p].mask = 0#8

/-- SEG_TABLE_EX of CFG_EX: digits. -/
def Config.segExDigits : List (Byte × Char) :=
  [(0x00#8, ' '), (0x77#8, '0'), (0x06#8, '1'), (0xB3#8, '2'), (0x97#8, '3'), (0xC6#8, '4'),
   (0xD5#8, '5'), (0xF5#8, '6'), (0x07#8, '7'), (0xF7#8, '8'), (0xD7#8, '9')]

/-- SEG_TABLE_EX of CFG_EX: letters, symbols and the second key of '1'. -/
def Config.segExLetters : List (Byte × Char) :=
  [(0xE7#8, 'A'), (0xF4#8, 'b'), (0x71#8, 'C'), (0xB0#8, 'c'), (0xB6#8, 'd'), (0xF1#8, 'E'),
   (0xE1#8, 'F'), (0xE6#8, 'H'), (0xE4#8, 'h'), (0x70#8, 'L'), (0xA4#8, 'n'), (0xB4#8, 'o'),
   (0xE3#8, 'P'), (0xA0#8, 'r'), (0xF0#8, 't'), (0x76#8, 'U'), (0x34#8, 'u'), (0xD6#8, 'y'),
   (0x80#8, '-'), (0x10#8, '_'), (0x36#8, 'J'), (0x60#8, '1')]

/-- ANNUN_TABLE_EX of CFG_EX, offsets 16, 2, 7 and 8. -/
def Config.annunExLow : List AnnunEntry :=
  [⟨.REM, ⟨16, 0x02#8⟩⟩, ⟨.SRQ, ⟨2, 0x02#8⟩⟩, ⟨.LSTN, ⟨2, 0x04#8⟩⟩, ⟨.TLK, ⟨2, 0x08#8⟩⟩,
   ⟨.ONLY, ⟨2, 0x10#8⟩⟩, ⟨.SHFT, ⟨2, 0x20#8⟩⟩, ⟨.LIM, ⟨2, 0x40#8⟩⟩, ⟨.DELTA_PCT, ⟨2, 0x80#8⟩⟩,
   ⟨.CAL, ⟨7, 0x01#8⟩⟩, ⟨.AX_PLUS_B, ⟨7, 0x02#8⟩⟩, ⟨.MIN, ⟨7, 0x04#8⟩⟩, ⟨.MAX, ⟨7, 0x08#8⟩⟩,
   ⟨.READ, ⟨7, 0x10#8⟩⟩, ⟨.BURST, ⟨7, 0x20#8⟩⟩, ⟨.SEQU, ⟨7, 0x40#8⟩⟩, ⟨.DELAY, ⟨7, 0x80#8⟩⟩,
   ⟨.ZERO, ⟨8, 0x01#8⟩⟩, ⟨.SET, ⟨8, 0x02#8⟩⟩, ⟨.TWO_WIRE, ⟨8, 0x04#8⟩⟩,
   ⟨.FOUR_WIRE, ⟨8, 0x08#8⟩⟩, ⟨.HF, ⟨8, 0x10#8⟩⟩, ⟨.CONTINUITY, ⟨8, 0x20#8⟩⟩,
   ⟨.DIODE, ⟨8, 0x40#8⟩⟩, ⟨.AC, ⟨8, 0x80#8⟩⟩]

/-- ANNUN_TABLE_EX of CFG_EX, offsets 16, 17 and 18. -/
def Config.annunExHigh : List AnnunEntry :=
  [⟨.DC, ⟨16, 0x01#8⟩⟩, ⟨.AC_DC, ⟨16, 0x08#8⟩⟩, ⟨.RANGE_UP, ⟨16, 0x10#8⟩⟩,
   ⟨.RANGE_DOWN, ⟨16, 0x20#8⟩⟩, ⟨.Z_BAR_MARKER, ⟨16, 0x80#8⟩⟩, ⟨.MAN_RANGE, ⟨17, 0x01#8⟩⟩,
   ⟨.SINGLE_TRIG, ⟨17, 0x02#8⟩⟩, ⟨.SPEED1, ⟨17, 0x04#8⟩⟩, ⟨.SPEED2, ⟨17, 0x08#8⟩⟩,
   ⟨.SPEED3, ⟨17, 0x10#8⟩⟩, ⟨.SPEED4, ⟨17, 0x20#8⟩⟩, ⟨.FILTER, ⟨17, 0x40#8⟩⟩,
   ⟨.NULL, ⟨17, 0x80#8⟩⟩, ⟨.HOLD, ⟨18, 0x01#8⟩⟩, ⟨.PROBE, ⟨18, 0x02#8⟩⟩, ⟨.ZAP, ⟨18, 0x04#8⟩⟩,
   ⟨.SHIFT_ARROW, ⟨18, 0x08#8⟩⟩, ⟨.S_MARKER, ⟨18, 0x10#8⟩⟩]

/-- The tables of CFG_EX (95_test_vectors.md section 2): the spec's own invention, used by tests and
witnesses only, and not the instrument's. -/
def Config.exampleTables : Tables where
  seg := Config.segExDigits ++ Config.segExLetters
  unit :=
    [(0x0145#16, .literal 'V'), (0x7007#16, .directive .omega), (0x0167#16, .literal 'A'),
     (0x6300#16, .literal '°'), (0x2524#16, .literal '%'), (0x0E00#16, .directive .risingEdge),
     (0x00E0#16, .directive .fallingEdge)]
  prefixTable :=
    [(0x0101#16, .literal 'µ'), (0x0102#16, .literal 'n'), (0x0201#16, .literal 'd'),
     (0x0202#16, .literal 'k'), (0x0301#16, .literal 'M'), (0x0302#16, .literal 'm'),
     (0x0401#16, .literal 'P'), (0x0402#16, .literal 'H'), (0x0501#16, .literal 'F'),
     (0x0502#16, .literal 'B'), (0x0601#16, .literal 'A'), (0x0602#16, .literal 'C'),
     (0x0E00#16, .directive .risingEdge), (0x00E0#16, .directive .fallingEdge)]
  annun := Config.annunExLow ++ Config.annunExHigh
  dp := #v[⟨15, 0x08#8⟩, ⟨14, 0x08#8⟩, ⟨13, 0x08#8⟩, ⟨12, 0x08#8⟩, ⟨11, 0x08#8⟩, ⟨10, 0x08#8⟩,
           ⟨9, 0x08#8⟩]
  bar := #v[⟨0, 0x01#8⟩, ⟨0, 0x02#8⟩, ⟨0, 0x04#8⟩, ⟨0, 0x08#8⟩, ⟨0, 0x10#8⟩, ⟨0, 0x20#8⟩,
            ⟨0, 0x40#8⟩, ⟨0, 0x80#8⟩, ⟨1, 0x01#8⟩, ⟨1, 0x02#8⟩, ⟨1, 0x04#8⟩, ⟨1, 0x08#8⟩,
            ⟨1, 0x10#8⟩, ⟨1, 0x20#8⟩, ⟨1, 0x40#8⟩, ⟨1, 0x80#8⟩, ⟨2, 0x01#8⟩]

/-- SEG_TABLE_EX meets R40. -/
theorem Config.exampleTables_segOk : Config.exampleTables.SegOk :=
  ⟨by decide, by decide, by decide, by
    simp [Config.requiredChars, Config.exampleTables, Config.segExDigits]⟩

/-- CFG_EX is well formed, as 95_test_vectors.md section 2 says of it. -/
theorem Config.exampleTables_wellFormed : Config.exampleTables.WellFormed :=
  ⟨Config.exampleTables_segOk, by decide, by decide, by decide, by decide, by decide⟩

/-- Tables together with the proof that they are well formed: what R222 (2) asks of a configuration
before the rules apply. The default only shows that the type is inhabited. -/
structure Config.GoodTables where
  tables : Tables := Config.exampleTables
  good   : tables.WellFormed := by exact Config.exampleTables_wellFormed
  deriving Inhabited

/-- The instrument's own tables. Their contents are not in the source (R8, N2 to N7), so this is an
opaque constant: nothing can be proved of it but that it is well formed (log entry 4). -/
opaque Config.instrument : Config.GoodTables

/-- The configuration a run starts with (R8): the default sentinel 0xFF, the general policy Polled,
the instrument's tables. -/
def Config.initial : Configuration where
  resetSentinel := 0xFF#8
  policy := .polled
  tables := Config.instrument.tables

end Sys2Proof
end

