-- ==== Sys2Proof/Syntax.lean ====
section
/-!
DEFINITION. The operations of the block, one constructor per row of spec/opcode_table.json (R104,
R105). The block executes no stored program: an "instruction" is an operation selected by an input
event, or one of the sub-operations and code points that have rules of their own (R9).
-/

namespace Sys2Proof

/-- The operations of the block. Sub-operations carry their operands, the snapshot among them, since
the spec defines them as functions of a snapshot `F` (R166 to R173). -/
inductive Instr where
  /-- XFER.PRI (R121): a whole transfer of declared length 22. -/
  | xferPri (bytes : List Byte)
  /-- XFER.SEC (R122): a whole transfer of declared length 8. -/
  | xferSec (bytes : List Byte)
  /-- XFER.IGN (R123): a whole transfer of any other declared length. -/
  | xferIgn (len : Nat) (bytes : List Byte)
  /-- XFER_BEGIN (R124): the start of a transfer at the byte-serial level. -/
  | xferBegin (len : Nat)
  /-- XFER_BYTE (R125): one byte of the transfer in progress. -/
  | xferByte (b : Byte)
  /-- INTERPRET (R165). -/
  | interpret
  /-- RESET (R220). -/
  | reset
  /-- FRDY.SET (R190): an effect of a completing recognised transfer. -/
  | frdySet
  /-- FRDY.CLR (R191): an effect of INTERPRET. -/
  | frdyClr
  /-- SEGDEC (R141): segment key to character. -/
  | segdec (key : Byte)
  /-- GLYDEC.U (R151): unit glyph code to GlyphResult. -/
  | glydecU (code : Code)
  /-- GLYDEC.P (R152): prefix glyph code to GlyphResult. -/
  | glydecP (code : Code)
  /-- BITTEST (R166): one single-bit field of a snapshot. -/
  | bittest (f : Snapshot) (offset : Offset) (mask : Byte)
  /-- ANNUN (R167). -/
  | annun (f : Snapshot)
  /-- BAR (R168). -/
  | bar (f : Snapshot)
  /-- DIGITS (R169). -/
  | digits (f : Snapshot)
  /-- DPOINTS (R170). -/
  | dpoints (f : Snapshot)
  /-- SIGN (R171). -/
  | sign (f : Snapshot)
  /-- UNIT (R172). -/
  | unit (f : Snapshot)
  /-- PREFIX (R173). -/
  | prefixGlyph (f : Snapshot)
  /-- SIGN.POS (R105, R171): a byte at offset 16 whose bit 2 is set. -/
  | signPos (v : Byte)
  /-- SIGN.NEG (R105, R171): a byte at offset 16 whose bit 2 is clear and bit 6 set. -/
  | signNeg (v : Byte)
  /-- SIGN.NONE (R105, R171): a byte at offset 16 whose bits 2 and 6 are clear. -/
  | signNone (v : Byte)
  /-- ANNUN.REM (R105, R167): a byte at offset 16 whose bit 1 is set. -/
  | annunRem (v : Byte)
  /-- UNIT.V (R105, R151): the unit code 0x0145. -/
  | unitV
  /-- UNIT.OMEGA (R105, R151): the unit code 0x7007. -/
  | unitOmega
  /-- UNIT.UNKNOWN (R105, R151): the default row of the unit codes. -/
  | unitUnknown (code : Code)
  /-- PREFIX.UNKNOWN (R105, R152): the default row of the prefix codes. -/
  | prefixUnknown (code : Code)
  /-- SEGDEC.UNKNOWN (R105, R141): the default row of the segment keys. -/
  | segdecUnknown (key : Byte)
  deriving DecidableEq, Repr

end Sys2Proof
end

