-- ==== Sys2Proof/WellFormed.lean ====
section
/-!
DEFINITION. Which operations are well formed: the operand conditions of the rules and of the rows of
spec/opcode_table.json.
-/

namespace Sys2Proof

/-- The operand conditions. A transfer has exactly as many bytes as it declares, and XFER.IGN
declares neither 22 nor 8 (R90, R121 to R123). A segment key has bit 3 clear (R140). A mask names a
single bit (R166). A byte or a code of a code-point row matches that row's match and mask (R105). -/
def Instr.wellFormed : Instr → Bool
  | .xferPri bytes => decide (bytes.length = 22)
  | .xferSec bytes => decide (bytes.length = 8)
  | .xferIgn len bytes => decide (len ≠ 22 ∧ len ≠ 8 ∧ bytes.length = len)
  | .xferBegin _ => true
  | .xferByte _ => true
  | .interpret => true
  | .reset => true
  | .frdySet => true
  | .frdyClr => true
  | .segdec key => decide (key &&& 0x08#8 = 0#8)
  | .glydecU _ => true
  | .glydecP _ => true
  | .bittest _ _ mask => isSingleBit mask
  | .annun _ => true
  | .bar _ => true
  | .digits _ => true
  | .dpoints _ => true
  | .sign _ => true
  | .unit _ => true
  | .prefixGlyph _ => true
  | .signPos v => decide (v &&& 0x04#8 = 0x04#8)
  | .signNeg v => decide (v &&& 0x44#8 = 0x40#8)
  | .signNone v => decide (v &&& 0x44#8 = 0x00#8)
  | .annunRem v => decide (v &&& 0x02#8 = 0x02#8)
  | .unitV => true
  | .unitOmega => true
  | .unitUnknown code => decide (code ≠ 0x0145#16 ∧ code ≠ 0x7007#16)
  | .prefixUnknown _ => true
  | .segdecUnknown key => decide (key &&& 0x08#8 = 0#8)

end Sys2Proof
end

