-- ==== Sys2Proof/Decode.lean ====
section
/-!
DEFINITION. From a raw stimulus to an operation, and back. The only opcode-like field of the block is
a transfer's declared length (R9, R103); the other rows are selected by event or by position, so a
stimulus carries what selects it (`Selector`). Decoding is total and rejects by name.
-/

namespace Sys2Proof

/-- Why a stimulus is no operation of the block. -/
inductive DecodeError where
  /-- A transfer delivers another number of bytes than it declares: ill-formed input, no step
  (R90, R129). -/
  | byteCount (declared delivered : Nat)
  /-- The operand bytes or the word are not those the row has. -/
  | badOperands (sel : Selector)
  /-- No row of the format matches the word (D26). -/
  | noRow (sel : Selector) (word : Nat)
  /-- A segment key with bit 3 set: the decoder is never called on an unmasked byte (R140). -/
  | reservedKeyBit (key : Byte)
  /-- A bit test names an offset outside 0 to 19 or a mask that is not a single bit (R166). -/
  | badBitPosition (offset mask : Byte)
  deriving DecidableEq, Repr

/-- The operation a transfer selects by its declared length alone, in R103's priority. -/
def selectTransfer (len : Nat) (bytes : List Byte) : Instr :=
  if len = 22 then .xferPri bytes
  else if len = 8 then .xferSec bytes
  else .xferIgn len bytes

/-- Twenty bytes, offset 0 first, as a snapshot; any other number of bytes is none. -/
def toSnapshot (bytes : List Byte) : Option Snapshot :=
  if h : bytes.toArray.size = 20 then some ⟨bytes.toArray, h⟩ else none

/-- A row with neither word nor bytes. -/
def decodeBare (st : Stimulus) (i : Instr) : Except DecodeError Instr :=
  if st.word = 0 ∧ st.bytes = [] then .ok i else .error (.badOperands st.sel)

/-- A row whose operand is the word, of any size (a declared length). -/
def decodeLength (st : Stimulus) (k : Nat → Instr) : Except DecodeError Instr :=
  if st.bytes = [] then .ok (k st.word) else .error (.badOperands st.sel)

/-- A row whose operand is the word, 8 bits wide. -/
def decodeByte (st : Stimulus) (k : Byte → Except DecodeError Instr) : Except DecodeError Instr :=
  if st.word < 256 ∧ st.bytes = [] then k (BitVec.ofNat 8 st.word) else .error (.badOperands st.sel)

/-- A row whose operand is the word, 16 bits wide. -/
def decodeCode (st : Stimulus) (k : Code → Instr) : Except DecodeError Instr :=
  if st.word < 65536 ∧ st.bytes = [] then .ok (k (BitVec.ofNat 16 st.word))
  else .error (.badOperands st.sel)

/-- A row whose operand is a snapshot. -/
def decodeFrame (st : Stimulus) (k : Snapshot → Instr) : Except DecodeError Instr :=
  match toSnapshot st.bytes with
  | some f => if st.word = 0 then .ok (k f) else .error (.badOperands st.sel)
  | none => .error (.badOperands st.sel)

/-- A row whose operand is a segment key (R140): bit 3 clear. -/
def decodeKey (st : Stimulus) (k : Byte → Instr) : Except DecodeError Instr :=
  decodeByte st fun key =>
    if key &&& 0x08#8 = 0#8 then .ok (k key) else .error (.reservedKeyBit key)

/-- The rows of the sign field of the byte at offset 16 (R105): SIGN.POS, SIGN.NEG, SIGN.NONE, by
their match and mask. -/
def decodeSignField (v : Byte) : Instr :=
  if v &&& 0x04#8 = 0x04#8 then .signPos v
  else if v &&& 0x44#8 = 0x40#8 then .signNeg v
  else .signNone v

/-- The row of the REM field of the byte at offset 16 (R105). -/
def decodeRemField (v : Byte) : Except DecodeError Instr :=
  if v &&& 0x02#8 = 0x02#8 then .ok (.annunRem v) else .error (.noRow .frameRem v.toNat)

/-- The rows of format GLYPH_UNIT (R105): the two codes of the source, else the default row. -/
def decodeUnitCode (code : Code) : Instr :=
  if code = 0x0145#16 then .unitV
  else if code = 0x7007#16 then .unitOmega
  else .unitUnknown code

/-- BITTEST's operands: offset, mask, then the snapshot (R166). -/
def decodeBittest (st : Stimulus) : Except DecodeError Instr :=
  match st.bytes with
  | o :: m :: rest =>
    match toSnapshot rest with
    | some f =>
      if st.word = 0 then
        if h : o.toNat < 20 ∧ isSingleBit m = true then .ok (.bittest f ⟨o.toNat, h.1⟩ m)
        else .error (.badBitPosition o m)
      else .error (.badOperands st.sel)
    | none => .error (.badOperands st.sel)
  | _ => .error (.badOperands st.sel)

/-- The operation a stimulus selects, or why it selects none. -/
def decode (st : Stimulus) : Except DecodeError Instr :=
  match st.sel with
  | .xfer =>
    if st.bytes.length = st.word then .ok (selectTransfer st.word st.bytes)
    else .error (.byteCount st.word st.bytes.length)
  | .xferBegin => decodeLength st .xferBegin
  | .xferByte => decodeByte st fun b => .ok (.xferByte b)
  | .interpret => decodeBare st .interpret
  | .reset => decodeBare st .reset
  | .frdySet => decodeBare st .frdySet
  | .frdyClr => decodeBare st .frdyClr
  | .segdec => decodeKey st .segdec
  | .glydecU => decodeCode st .glydecU
  | .glydecP => decodeCode st .glydecP
  | .bittest => decodeBittest st
  | .annun => decodeFrame st .annun
  | .bar => decodeFrame st .bar
  | .digits => decodeFrame st .digits
  | .dpoints => decodeFrame st .dpoints
  | .sign => decodeFrame st .sign
  | .unit => decodeFrame st .unit
  | .prefixGlyph => decodeFrame st .prefixGlyph
  | .frameSign => decodeByte st fun v => .ok (decodeSignField v)
  | .frameRem => decodeByte st decodeRemField
  | .glyphUnit => decodeCode st decodeUnitCode
  | .glyphPrefix => decodeCode st .prefixUnknown
  | .segKey => decodeKey st .segdecUnknown

/-- The stimulus of an operation, from the same formats. -/
def encode : Instr → Stimulus
  | .xferPri bytes => ⟨.xfer, 22, bytes⟩
  | .xferSec bytes => ⟨.xfer, 8, bytes⟩
  | .xferIgn len bytes => ⟨.xfer, len, bytes⟩
  | .xferBegin len => ⟨.xferBegin, len, []⟩
  | .xferByte b => ⟨.xferByte, b.toNat, []⟩
  | .interpret => ⟨.interpret, 0, []⟩
  | .reset => ⟨.reset, 0, []⟩
  | .frdySet => ⟨.frdySet, 0, []⟩
  | .frdyClr => ⟨.frdyClr, 0, []⟩
  | .segdec key => ⟨.segdec, key.toNat, []⟩
  | .glydecU code => ⟨.glydecU, code.toNat, []⟩
  | .glydecP code => ⟨.glydecP, code.toNat, []⟩
  | .bittest f offset mask => ⟨.bittest, 0, BitVec.ofNat 8 offset.val :: mask :: f.toList⟩
  | .annun f => ⟨.annun, 0, f.toList⟩
  | .bar f => ⟨.bar, 0, f.toList⟩
  | .digits f => ⟨.digits, 0, f.toList⟩
  | .dpoints f => ⟨.dpoints, 0, f.toList⟩
  | .sign f => ⟨.sign, 0, f.toList⟩
  | .unit f => ⟨.unit, 0, f.toList⟩
  | .prefixGlyph f => ⟨.prefixGlyph, 0, f.toList⟩
  | .signPos v => ⟨.frameSign, v.toNat, []⟩
  | .signNeg v => ⟨.frameSign, v.toNat, []⟩
  | .signNone v => ⟨.frameSign, v.toNat, []⟩
  | .annunRem v => ⟨.frameRem, v.toNat, []⟩
  | .unitV => ⟨.glyphUnit, 0x0145, []⟩
  | .unitOmega => ⟨.glyphUnit, 0x7007, []⟩
  | .unitUnknown code => ⟨.glyphUnit, code.toNat, []⟩
  | .prefixUnknown code => ⟨.glyphPrefix, code.toNat, []⟩
  | .segdecUnknown key => ⟨.segKey, key.toNat, []⟩

/-- The stimulus a bare table word stands for. DESIGN CHOICE (log entry 16): the table's words of the
formats XFER, FRAMEBIT, SEGKEY and of row SEGDEC overlap, and only its format column tells them apart,
so the column is restored here from the word's size and value. A word of more than 16 bits is
SIGN.NONE's (its `offset` field stands at bit 16), its low byte the byte at offset 16; one of 9 to 16 bits is a
GLYPH_UNIT code; one of 8 bits that is the match value of a row with fixed bits is that row's, the
first in table order (SEGDEC before SIGN.NONE at 0x00); any other word is a declared length. A
transfer's bytes are the zeros above the word. -/
def tableStimulus (nbits w : Nat) : Stimulus :=
  if 16 < nbits then ⟨.frameSign, w % 256, []⟩
  else if 8 < nbits then ⟨.glyphUnit, w, []⟩
  else if 0 < nbits ∧ w = 0x00 then ⟨.segdec, w, []⟩
  else if w = 0x04 ∨ w = 0x40 then ⟨.frameSign, w, []⟩
  else if w = 0x02 then ⟨.frameRem, w, []⟩
  else ⟨.xfer, w, List.replicate w 0#8⟩

/-- The operation this decoder reads from a bare table word, where it reads one. -/
def decodeTableWord (nbits w : Nat) : Option Instr :=
  match decode (tableStimulus nbits w) with
  | .ok i => some i
  | .error _ => none

end Sys2Proof
end

