-- ==== Sys2Proof/Machine/State.lean ====
section
/-!
DEFINITION. The state of the block (R20 to R37), its reset value (R47), and the reasons a step does
not answer a next state.
-/

namespace Sys2Proof.Machine

/-- The three signs (R32). `noSign` is the spec's None. -/
inductive Sign where
  | positive
  | negative
  | noSign
  deriving DecidableEq, Repr

/-- DisplayState, the output register bundle (R30 to R36). -/
structure DisplayState where
  /-- Seven characters, most significant first (R31). -/
  digits        : Vector Char 7
  sign          : Sign
  /-- `dp[p]` says whether the point of position `p` is lit (R33). -/
  decimalPoints : Vector Bool 7
  unitGlyph     : GlyphResult
  prefixGlyph   : GlyphResult
  /-- One flag per name of ANNUN_TABLE, in the table's order (R35, R167). -/
  annunciators  : List (AnnunName × Bool)
  bargraph      : Vector Bool 17
  deriving DecidableEq, Repr

/-- The value a pure sub-operation returns (R141, R151, R152, R166 to R173). -/
inductive OpResult where
  | char (c : Char)
  | glyph (g : GlyphResult)
  | flag (b : Bool)
  | annunciators (l : List (AnnunName × Bool))
  | bargraph (v : Vector Bool 17)
  | digits (v : Vector Char 7)
  | decimalPoints (v : Vector Bool 7)
  | sign (x : Sign)
  deriving DecidableEq, Repr

/-- RawFrame as a byte-addressed space (R9, R60): cells of offset and byte, in canonical form. -/
abbrev Memory := List Host.Cell

/-- The state: what the spec gives the block, the configuration of the run, and two fields of the
model's own (`inputs`, `result`). -/
structure State where
  /-- RawFrame, `RF[0]` to `RF[19]` (R20). -/
  frame      : Memory
  /-- Declared length of the transfer in progress (R26). -/
  rxLen      : Nat
  /-- receivedIndex of the next byte (R25). -/
  rxIdx      : Nat
  /-- A transfer is in progress (R27). -/
  rxActive   : Bool
  /-- The frame-valid output (R29). -/
  frameReady : Bool
  /-- The output register, absent until the first INTERPRET (R30, R37). -/
  ds         : Option DisplayState
  /-- Whether `ds` holds a value (R37). -/
  dsValid    : Bool
  /-- The configuration: constant, no operation writes it (R38, log entry 3). -/
  cfg        : Configuration
  /-- The MODEL's own: the stimuli the environment has still to present (R11, log entry 1). -/
  inputs     : List Stimulus
  /-- The MODEL's own: the value the last pure sub-operation returned (log entry 11). -/
  result     : Option OpResult
  deriving DecidableEq, Repr

/-- There is no fault: "A model therefore has no fault outcome for any operation of this block"
(R200). The type has no constructor, so that no step can answer one. -/
inductive Fault where
  deriving DecidableEq, Repr

/-- Why a step gives no next state. All are safe: the model stops where the spec gives no step. -/
inductive Refusal where
  /-- An operation without a meaning in this model: raised by `exec` alone. Safe. -/
  | notModelled (mnemonic : String)
  /-- XFER.PRI, XFER.SEC, XFER.IGN or XFER_BEGIN while a transfer is in progress (R129, D5). Safe. -/
  | transferInProgress
  /-- XFER_BYTE while no transfer is in progress (R129, D5). Safe. -/
  | noTransferInProgress
  /-- XFER.PRI, XFER.SEC or XFER.IGN with another number of bytes than declared (R129). Safe. -/
  | byteCountMismatch (declared delivered : Nat)
  /-- XFER.IGN with a recognised length: R123 requires any other. Safe. -/
  | recognisedLength (len : Nat)
  /-- SIGN.POS, SIGN.NEG, SIGN.NONE or ANNUN.REM with a byte the row does not match (R105, D26).
  Safe. -/
  | rowDoesNotMatch (mnemonic : String)
  /-- `step` alone: FRDY.SET or FRDY.CLR presented as an event of its own, which it is not (R190,
  R191). Safe. -/
  | notAnEvent (mnemonic : String)
  /-- `step` alone: a stimulus that selects no operation. Safe. -/
  | undecodable (e : DecodeError)
  deriving DecidableEq, Repr

/-- What one step answers. -/
abbrev Outcome := Host.Outcome State Fault Refusal

/-- The state right after reset (R47): every byte of RawFrame holds the sentinel 0xFF, which is what
an unlisted offset reads as; the flags and the sequencing registers are 0; `DS` is absent. -/
def State.reset : State where
  frame := []
  rxLen := 0
  rxIdx := 0
  rxActive := false
  frameReady := false
  ds := none
  dsValid := false
  cfg := Config.initial
  inputs := []
  result := none

end Sys2Proof.Machine
end

