-- ==== Sys2Proof/Machine/Ops.lean ====
section
/-!
DEFINITION. The named operations over RawFrame and the registers. There is no exception to take and
none to return from (R200, R208, R209): no operation for it stands here.
-/

namespace Sys2Proof.Machine

/-- What an offset that no cell lists reads as: the contents after reset, 0xFF (R47, log entry 17). -/
def unlistedByte : Byte := 0xFF#8

/-- The byte of a cell list at an offset. -/
def readCell : Memory → Nat → Byte
  | [], _ => unlistedByte
  | (b, v) :: m, a => if b = a then v else readCell m a

/-- The cells without those of one offset. -/
def eraseCell : Memory → Nat → Memory
  | [], _ => []
  | (b, w) :: m, a => if b = a then eraseCell m a else (b, w) :: eraseCell m a

/-- A cell put before the first of a greater offset. -/
def insertCell : Memory → Nat → Byte → Memory
  | [], a, v => [(a, v)]
  | (b, w) :: m, a, v => if a < b then (a, v) :: (b, w) :: m else (b, w) :: insertCell m a v

/-- Write one cell, keeping the canonical form: writing what an unlisted offset reads as removes the
cell. -/
def writeCell (m : Memory) (a : Nat) (v : Byte) : Memory :=
  if v = unlistedByte then eraseCell m a else insertCell (eraseCell m a) a v

/-- The canonical form: offsets strictly rising, all of them in the frame (R63), and no cell equal to
what an unlisted offset reads as. -/
abbrev Memory.wf (m : Memory) : Prop :=
  m.Pairwise (fun x y => x.1 < y.1) ∧ ∀ c ∈ m, c.1 < 20 ∧ c.2 ≠ unlistedByte

/-- `RF[o]` (R13). -/
def readByte (m : Memory) (o : Offset) : Byte :=
  readCell m o.val

/-- `RF[o] <- v` (R13): one byte, and no other offset changes (R22). -/
def writeByte (m : Memory) (o : Offset) (v : Byte) : Memory :=
  writeCell m o.val v

/-- Bytes stored at ascending offsets in the order received (R62), from offset `base` on. -/
def storeFrom : Memory → Nat → List Byte → Memory
  | m, _, [] => m
  | m, base, b :: bs => storeFrom (writeCell m base b) (base + 1) bs

/-- `snapshot(RF)`: all 20 bytes at one instant (R13, R68). -/
def snapshot (m : Memory) : Snapshot :=
  Vector.ofFn fun o => readByte m o

/-- `RF[o]` of a state. -/
def State.rf (s : State) (o : Offset) : Byte := readByte s.frame o

/-- The frame replaced; no other register changes. -/
def State.setFrame (s : State) (m : Memory) : State := { s with frame := m }

/-- The sequencing registers replaced (R25 to R27). -/
def State.setRx (s : State) (len idx : Nat) (active : Bool) : State :=
  { s with rxLen := len, rxIdx := idx, rxActive := active }

/-- The flag `frame_ready` replaced (R29). -/
def State.setFrameReady (s : State) (b : Bool) : State := { s with frameReady := b }

/-- `DS` written as a whole, with `ds_valid` (R30, R37). -/
def State.setDisplay (s : State) (d : DisplayState) : State := { s with ds := some d, dsValid := true }

/-- The pending stimuli replaced (the model's own field). -/
def State.setInputs (s : State) (l : List Stimulus) : State := { s with inputs := l }

/-- The value of a pure sub-operation returned (the model's own field). -/
def State.setResult (s : State) (r : OpResult) : State := { s with result := some r }

/-- A pure sub-operation: it returns its value and writes no state of the block (R141, R151, R152,
R166 to R173: "Flags written: none"). -/
def answer (r : OpResult) (s : State) : Outcome :=
  .next (s.setResult r)

end Sys2Proof.Machine
end

