-- ==== Sys2Proof/Machine/Control.lean ====
section
/-!
DEFINITION. RESET (R220, R221).
-/

namespace Sys2Proof.Machine

/-- RESET (R220): enabled in every state; all 20 bytes of RawFrame become the configuration's
sentinel. Nothing survives but the configuration (R221); the stimuli still to come are the
environment's and stay (log entry 26). -/
def execReset (s : State) : Outcome :=
  .next { State.reset with
    frame := storeFrom [] 0 (List.replicate 20 s.cfg.resetSentinel)
    cfg := s.cfg
    inputs := s.inputs }

end Sys2Proof.Machine
end

