-- ==== Sys2Proof/Machine/Operands.lean ====
section
/-!
DEFINITION. The operand forms and the pure functions of the decoders: the write offset (R99), the
segment key (R100), the glyph code (R101), the single-bit field (R98, R166), the lookups (R13), and
the function from a snapshot to a DisplayState (R174).
-/

namespace Sys2Proof.Machine

/-- A natural number as an offset of the frame, where it is one. -/
def toOffset (n : Nat) : Option Offset :=
  if h : n < 20 then some ⟨n, h⟩ else none

/-- Whether a declared length is one of the two recognised shapes (R90). -/
def recognised (len : Nat) : Bool :=
  len == 22 || len == 8

/-- Where the byte at `receivedIndex = i` of a transfer of declared length `len` goes (R91 to R93,
R99): nowhere in the preamble and in an ignored transfer. -/
def writeOffset (len i : Nat) : Option Offset :=
  if len = 22 ∧ 5 ≤ i then toOffset (i - 2)
  else if len = 8 ∧ 5 ≤ i then toOffset (i - 5)
  else none

/-- The segment key of a digit byte (R100): the byte with bit 3 cleared. -/
def segmentKey (v : Byte) : Byte :=
  v &&& 0xF7#8

/-- A glyph code (R61, R101): the high byte stands at the lower offset. -/
def glyphCode (hi lo : Byte) : Code :=
  (hi.zeroExtend 16 <<< 8) ||| lo.zeroExtend 16

/-- The value a table gives a key, or the default; the first entry wins (R13, D19). -/
def lookup {κ υ : Type} [DecidableEq κ] : List (κ × υ) → κ → υ → υ
  | [], _, d => d
  | (k, v) :: t, key, d => if k = key then v else lookup t key d

/-- SEGDEC (R141); on a byte with bit 3 set, the only extension R140 allows. -/
def segmentChar (t : Tables) (key : Byte) : Char :=
  lookup t.seg (segmentKey key) '?'

/-- GLYDEC.U (R151). -/
def unitResult (t : Tables) (code : Code) : GlyphResult :=
  lookup t.unit code .blank

/-- GLYDEC.P (R152). -/
def prefixResult (t : Tables) (code : Code) : GlyphResult :=
  lookup t.prefixTable code .blank

/-- `bit(v, m)` (R13). -/
def bit (v m : Byte) : Bool :=
  decide (v &&& m ≠ 0#8)

/-- BITTEST (R166): the named bit of the unmasked byte. -/
def bitTest (f : Snapshot) (o : Offset) (mask : Byte) : Bool :=
  bit f[o] mask

/-- ANNUN (R167): one flag per triple of the table. -/
def annunOf (t : Tables) (f : Snapshot) : List (AnnunName × Bool) :=
  t.annun.map fun e => (e.name, bitTest f e.pos.offset e.pos.mask)

/-- BAR (R168): 17 independent bits in table order. -/
def barOf (t : Tables) (f : Snapshot) : Vector Bool 17 :=
  Vector.ofFn fun j => bitTest f t.bar[j].offset t.bar[j].mask

/-- DIGITS (R169): offsets 15 down to 9, most significant first. -/
def digitsOf (t : Tables) (f : Snapshot) : Vector Char 7 :=
  Vector.ofFn fun i => segmentChar t (segmentKey (f[15 - i.val]'(by omega)))

/-- DPOINTS (R170): each position's own bit, on the unmasked byte. -/
def pointsOf (t : Tables) (f : Snapshot) : Vector Bool 7 :=
  Vector.ofFn fun p => bitTest f t.dp[p].offset t.dp[p].mask

/-- The sign bits of the byte at offset 16, Positive first (R171). -/
def signOfByte (v : Byte) : Sign :=
  if v &&& 0x04#8 ≠ 0#8 then .positive
  else if v &&& 0x40#8 ≠ 0#8 then .negative
  else .noSign

/-- SIGN (R171). -/
def signOf (f : Snapshot) : Sign :=
  signOfByte f[16]

/-- UNIT (R172): bytes 5 and 6. -/
def unitOf (t : Tables) (f : Snapshot) : GlyphResult :=
  unitResult t (glyphCode f[5] f[6])

/-- PREFIX (R173): bytes 3 and 4. -/
def prefixOf (t : Tables) (f : Snapshot) : GlyphResult :=
  prefixResult t (glyphCode f[3] f[4])

/-- `interpretFn` (R174): all seven fields, from the snapshot and the tables alone. -/
def interpretFn (t : Tables) (f : Snapshot) : DisplayState where
  digits := digitsOf t f
  sign := signOf f
  decimalPoints := pointsOf t f
  unitGlyph := unitOf t f
  prefixGlyph := prefixOf t f
  annunciators := annunOf t f
  bargraph := barOf t f

/-- The character a renderer prints for a GlyphResult; `none` is blank (R34). -/
def charOf : GlyphResult → Option Char
  | .blank => none
  | .literal c => some c
  | .directive _ => none

/-- The special glyph a GlyphResult directs a renderer to draw, if any (R34, R155). -/
def directiveOf : GlyphResult → Option SpecialGlyph
  | .blank => none
  | .literal _ => none
  | .directive g => some g

/-- The value of a named annunciator; a name absent from the table has none (R167). -/
def annunciator (d : DisplayState) (n : AnnunName) : Option Bool :=
  (d.annunciators.find? fun e => e.1 = n).map Prod.snd

end Sys2Proof.Machine
end

