-- ==== Sys2Proof/Machine/Decoders.lean ====
section
/-!
DEFINITION. The Segment Decoder (R140 to R144) and the two Glyph Decoders (R150 to R157), with the
code points and default rows of R105. All are pure: no state of the block is written.
-/

namespace Sys2Proof.Machine

/-- SEGDEC (R141). -/
def execSegdec (key : Byte) (s : State) : Outcome :=
  answer (.char (segmentChar s.cfg.tables key)) s

/-- GLYDEC.U (R151). -/
def execGlydecU (code : Code) (s : State) : Outcome :=
  answer (.glyph (unitResult s.cfg.tables code)) s

/-- GLYDEC.P (R152). -/
def execGlydecP (code : Code) (s : State) : Outcome :=
  answer (.glyph (prefixResult s.cfg.tables code)) s

/-- UNIT.V (R105, R151): the code 0x0145 is Literal('V'). -/
def execUnitV (s : State) : Outcome :=
  answer (.glyph (.literal 'V')) s

/-- UNIT.OMEGA (R105, R151): the code 0x7007 is Directive(Omega). -/
def execUnitOmega (s : State) : Outcome :=
  answer (.glyph (.directive .omega)) s

/-- UNIT.UNKNOWN (R105, R151): Blank for every code not in UNIT_TABLE; a code the configuration knows
gives its entry (log entry 14). -/
def execUnitUnknown (code : Code) (s : State) : Outcome :=
  answer (.glyph (unitResult s.cfg.tables code)) s

/-- PREFIX.UNKNOWN (R105, R152): Blank for every code not in PREFIX_TABLE; a code the configuration
knows gives its entry (log entry 14). -/
def execPrefixUnknown (code : Code) (s : State) : Outcome :=
  answer (.glyph (prefixResult s.cfg.tables code)) s

/-- SEGDEC.UNKNOWN (R105, R141): '?' for every key not in SEG_TABLE; a key the configuration knows
gives its entry (log entry 14). -/
def execSegdecUnknown (key : Byte) (s : State) : Outcome :=
  answer (.char (segmentChar s.cfg.tables key)) s

end Sys2Proof.Machine
end

