-- ==== Sys2Proof/Machine/Flags.lean ====
section
/-!
DEFINITION. The flags: what raises and lowers `frame_ready` (R190, R191), the step of the Interpreter
(R165), and what the completion of a recognised transfer does under either policy (R179).
-/

namespace Sys2Proof.Machine

/-- FRDY.SET (R190). -/
def raiseFrameReady (s : State) : State :=
  s.setFrameReady true

/-- FRDY.CLR (R191). -/
def lowerFrameReady (s : State) : State :=
  s.setFrameReady false

/-- The guard of INTERPRET (R165, R68). -/
def interpretEnabled (s : State) : Bool :=
  s.frameReady && !s.rxActive

/-- The effect of INTERPRET where its guard holds (R165): `DS` recomputed whole from one snapshot,
`ds_valid` set, `frame_ready` lowered, in one step. -/
def interpretNow (s : State) : State :=
  lowerFrameReady (s.setDisplay (interpretFn s.cfg.tables (snapshot s.frame)))

/-- The end of a recognised transfer: `frame_ready` rises, and under the Immediate policy INTERPRET
follows with no other step between (R179, R206). -/
def completeTransfer (s : State) : State :=
  match s.cfg.policy with
  | .polled => raiseFrameReady s
  | .immediate => interpretNow (raiseFrameReady s)

end Sys2Proof.Machine
end

