-- ==== Sys2Proof/Machine/Interpreter.lean ====
section
/-!
DEFINITION. The Frame Interpreter (R165 to R179): INTERPRET, its sub-operations on a snapshot, and
the code points of the byte at offset 16 (R105).
-/

namespace Sys2Proof.Machine

/-- INTERPRET (R165). Where its guard is false the request is not honoured and the state is unchanged
(95_test_vectors.md I1, P2 to P4; log entry 10). -/
def execInterpret (s : State) : Outcome :=
  if interpretEnabled s then .next (interpretNow s) else .next s

/-- BITTEST (R166). -/
def execBittest (f : Snapshot) (offset : Offset) (mask : Byte) (s : State) : Outcome :=
  answer (.flag (bitTest f offset mask)) s

/-- ANNUN (R167). -/
def execAnnun (f : Snapshot) (s : State) : Outcome :=
  answer (.annunciators (annunOf s.cfg.tables f)) s

/-- BAR (R168). -/
def execBar (f : Snapshot) (s : State) : Outcome :=
  answer (.bargraph (barOf s.cfg.tables f)) s

/-- DIGITS (R169). -/
def execDigits (f : Snapshot) (s : State) : Outcome :=
  answer (.digits (digitsOf s.cfg.tables f)) s

/-- DPOINTS (R170). -/
def execDpoints (f : Snapshot) (s : State) : Outcome :=
  answer (.decimalPoints (pointsOf s.cfg.tables f)) s

/-- SIGN (R171). -/
def execSign (f : Snapshot) (s : State) : Outcome :=
  answer (.sign (signOf f)) s

/-- UNIT (R172). -/
def execUnit (f : Snapshot) (s : State) : Outcome :=
  answer (.glyph (unitOf s.cfg.tables f)) s

/-- PREFIX (R173). -/
def execPrefixGlyph (f : Snapshot) (s : State) : Outcome :=
  answer (.glyph (prefixOf s.cfg.tables f)) s

/-- A code-point row of the byte at offset 16 (R105): its value where the byte matches the row. -/
def framebitRow (mnemonic : String) (mask pattern : Byte) (v : Byte) (r : OpResult) (s : State) :
    Outcome :=
  if v &&& mask = pattern then answer r s else .refused (.rowDoesNotMatch mnemonic)

/-- SIGN.POS (R171): bit 2 set gives Positive. -/
def execSignPos (v : Byte) (s : State) : Outcome :=
  framebitRow "SIGN.POS" 0x04#8 0x04#8 v (.sign .positive) s

/-- SIGN.NEG (R171): bit 2 clear and bit 6 set gives Negative. -/
def execSignNeg (v : Byte) (s : State) : Outcome :=
  framebitRow "SIGN.NEG" 0x44#8 0x40#8 v (.sign .negative) s

/-- SIGN.NONE (R171): bits 2 and 6 clear gives None. -/
def execSignNone (v : Byte) (s : State) : Outcome :=
  framebitRow "SIGN.NONE" 0x44#8 0x00#8 v (.sign .noSign) s

/-- ANNUN.REM (R167): bit 1 set gives REM = true. -/
def execAnnunRem (v : Byte) (s : State) : Outcome :=
  framebitRow "ANNUN.REM" 0x02#8 0x02#8 v (.annunciators [(.REM, true)]) s

end Sys2Proof.Machine
end

