-- ==== Sys2Proof/Machine/Reassembler.lean ====
section
/-!
DEFINITION. The Transport Reassembler (R120 to R129): XFER.PRI, XFER.SEC, XFER.IGN at Level T,
XFER_BEGIN and XFER_BYTE at Level B.
-/

namespace Sys2Proof.Machine

/-- What every whole transfer requires: no transfer in progress (R129: a second start inside a
transfer is ill-formed) and exactly the declared number of bytes (R90). The sequencing registers keep
their values: they exist at Level B only (R25, log entry 8). -/
def wholeTransfer (len : Nat) (bytes : List Byte) (s t : State) : Outcome :=
  if s.rxActive then .refused .transferInProgress
  else if bytes.length = len then .next t
  else .refused (.byteCountMismatch len bytes.length)

/-- The state after a recognised transfer whose payload goes to offset `base` on: the five preamble
bytes are dropped (R90, R108). -/
def storePayload (base : Nat) (bytes : List Byte) (s : State) : State :=
  completeTransfer (s.setFrame (storeFrom s.frame base (bytes.drop 5)))

/-- XFER.PRI (R121): bytes 5 to 21 to offsets 3 to 19. -/
def execXferPri (bytes : List Byte) (s : State) : Outcome :=
  wholeTransfer 22 bytes s (storePayload 3 bytes s)

/-- XFER.SEC (R122): bytes 5 to 7 to offsets 0 to 2. -/
def execXferSec (bytes : List Byte) (s : State) : Outcome :=
  wholeTransfer 8 bytes s (storePayload 0 bytes s)

/-- XFER.IGN (R123): all bytes consumed, no state changes. -/
def execXferIgn (len : Nat) (bytes : List Byte) (s : State) : Outcome :=
  if recognised len then .refused (.recognisedLength len)
  else wholeTransfer len bytes s s

/-- XFER_BEGIN (R124). -/
def execXferBegin (len : Nat) (s : State) : Outcome :=
  if s.rxActive then .refused .transferInProgress
  else .next (s.setRx len 0 (decide (0 < len)))

/-- The frame after one byte of the transfer in progress (R125): stored or dropped. -/
def receiveByte (b : Byte) (s : State) : Memory :=
  match writeOffset s.rxLen s.rxIdx with
  | some o => writeByte s.frame o b
  | none => s.frame

/-- XFER_BYTE (R125). -/
def execXferByte (b : Byte) (s : State) : Outcome :=
  if s.rxActive then
    let t := s.setFrame (receiveByte b s)
    if s.rxIdx + 1 = s.rxLen then
      let done := t.setRx s.rxLen (s.rxIdx + 1) false
      .next (if recognised s.rxLen then completeTransfer done else done)
    else .next (t.setRx s.rxLen (s.rxIdx + 1) true)
  else .refused .noTransferInProgress

end Sys2Proof.Machine
end

