-- ==== Sys2Proof/Machine/Signaler.lean ====
section
/-!
DEFINITION. The frame-valid signaler (R190, R191): the two effects on `frame_ready`, each as a meaning
of its own row. Neither is an event: `step` takes none as an input (Machine/Fetch.lean).
-/

namespace Sys2Proof.Machine

/-- FRDY.SET (R190): `frame_ready <- 1`. -/
def execFrdySet (s : State) : Outcome :=
  .next (raiseFrameReady s)

/-- FRDY.CLR (R191): `frame_ready <- 0`. -/
def execFrdyClr (s : State) : Outcome :=
  .next (lowerFrameReady s)

end Sys2Proof.Machine
end

