-- ==== Sys2Proof/Machine/Dispatch.lean ====
section
/-!
DEFINITION. One arm per operation, each a direct call of its meaning.
-/

namespace Sys2Proof.Machine

def exec (i : Instr) (s : State) : Host.Outcome State Fault Refusal :=
  match i with
  -- the Transport Reassembler
  | .xferPri bytes => Sys2Proof.Machine.execXferPri bytes s
  | .xferSec bytes => Sys2Proof.Machine.execXferSec bytes s
  | .xferIgn len bytes => Sys2Proof.Machine.execXferIgn len bytes s
  | .xferBegin len => Sys2Proof.Machine.execXferBegin len s
  | .xferByte b => Sys2Proof.Machine.execXferByte b s
  -- the Frame Interpreter and the reset
  | .interpret => Sys2Proof.Machine.execInterpret s
  | .reset => Sys2Proof.Machine.execReset s
  -- the frame-valid signaler
  | .frdySet => Sys2Proof.Machine.execFrdySet s
  | .frdyClr => Sys2Proof.Machine.execFrdyClr s
  -- the decoders
  | .segdec key => Sys2Proof.Machine.execSegdec key s
  | .glydecU code => Sys2Proof.Machine.execGlydecU code s
  | .glydecP code => Sys2Proof.Machine.execGlydecP code s
  -- the sub-operations of the Interpreter
  | .bittest f offset mask => Sys2Proof.Machine.execBittest f offset mask s
  | .annun f => Sys2Proof.Machine.execAnnun f s
  | .bar f => Sys2Proof.Machine.execBar f s
  | .digits f => Sys2Proof.Machine.execDigits f s
  | .dpoints f => Sys2Proof.Machine.execDpoints f s
  | .sign f => Sys2Proof.Machine.execSign f s
  | .unit f => Sys2Proof.Machine.execUnit f s
  | .prefixGlyph f => Sys2Proof.Machine.execPrefixGlyph f s
  -- the code points
  | .signPos v => Sys2Proof.Machine.execSignPos v s
  | .signNeg v => Sys2Proof.Machine.execSignNeg v s
  | .signNone v => Sys2Proof.Machine.execSignNone v s
  | .annunRem v => Sys2Proof.Machine.execAnnunRem v s
  | .unitV => Sys2Proof.Machine.execUnitV s
  | .unitOmega => Sys2Proof.Machine.execUnitOmega s
  | .unitUnknown code => Sys2Proof.Machine.execUnitUnknown code s
  | .prefixUnknown code => Sys2Proof.Machine.execPrefixUnknown code s
  | .segdecUnknown key => Sys2Proof.Machine.execSegdecUnknown key s

end Sys2Proof.Machine
end

