-- ==== Sys2Proof/Machine/Fetch.lean ====
section
/-!
DEFINITION. What a step takes next from the environment: the first pending stimulus, decoded. The
block fetches no stored program (R9, R73); its operations are selected by input events, one per step
(R205, R206).
-/

namespace Sys2Proof.Machine

/-- What the environment presents at a step. -/
inductive Fetched where
  /-- No event: the block is idle and keeps all state (R213). -/
  | idle
  /-- A stimulus that has no step. -/
  | rejected (r : Refusal)
  /-- An operation, and the state with its stimulus taken. -/
  | operation (i : Instr) (s : State)
  deriving DecidableEq, Repr

/-- Why an operation cannot be an event of its own: the two effects of R190 and R191 ("These are not
events of their own"), by mnemonic. Every other operation can be presented (log entries 12, 13). -/
def bareEffect : Instr → Option String
  | .frdySet => some "FRDY.SET"
  | .frdyClr => some "FRDY.CLR"
  | .xferPri _ | .xferSec _ | .xferIgn _ _ | .xferBegin _ | .xferByte _ | .interpret | .reset => none
  | .segdec _ | .glydecU _ | .glydecP _ | .bittest _ _ _ | .annun _ | .bar _ | .digits _ => none
  | .dpoints _ | .sign _ | .unit _ | .prefixGlyph _ | .signPos _ | .signNeg _ | .signNone _ => none
  | .annunRem _ | .unitV | .unitOmega | .unitUnknown _ | .prefixUnknown _ => none
  | .segdecUnknown _ => none

/-- The operation a stimulus selects, presented in state `s`. -/
def present (st : Stimulus) (s : State) : Fetched :=
  match decode st with
  | .error e => .rejected (.undecodable e)
  | .ok i =>
    match bareEffect i with
    | some m => .rejected (.notAnEvent m)
    | none => .operation i s

/-- The next event: the first of the pending stimuli (R206: one event per step). -/
def fetch (s : State) : Fetched :=
  match s.inputs with
  | [] => .idle
  | st :: rest => present st (s.setInputs rest)

/-- A stimulus placed before all pending ones. -/
def placeFirst (st : Stimulus) (s : State) : State :=
  s.setInputs (st :: s.inputs)

end Sys2Proof.Machine
end

