-- ==== Sys2Proof/Machine/Step.lean ====
section
/-!
DEFINITION. One step of the block: the next event of the environment, run.
-/

namespace Sys2Proof.Machine

/-- One step: idle where nothing is presented (R213, R233: the block never halts), a refusal where
the stimulus has no step (R129), else the operation it selects. -/
def step (s : State) : Host.Outcome State Fault Refusal :=
  match fetch s with
  | .idle => .next s
  | .rejected r => .refused r
  | .operation i t => exec i t

/-- `s` with the operation of a table word as the next event (log entry 16). -/
def State.withFetchWord (s : State) (nbits w : Nat) : State :=
  placeFirst (tableStimulus nbits w) s

end Sys2Proof.Machine
end

