-- ==== Sys2Proof/Machine/Run.lean ====
section
/-!
DEFINITION. Sequences of operations, the byte-serial expansion of a transfer (R109), the
pseudo-operations of the stimulus notation (R110), and the Level T part of a state (R49).
-/

namespace Sys2Proof.Machine

/-- Operations one after another, stopping at the first that gives no next state. -/
def execAll : List Instr → State → Outcome
  | [], s => .next s
  | i :: is, s =>
    match exec i s with
    | .next t => execAll is t
    | .fault f => .fault f
    | .refused r => .refused r

/-- The byte-serial form of a whole transfer: XFER_BEGIN with its length, then one XFER_BYTE for each
of its bytes (R109, R126). -/
def levelB (bytes : List Byte) : List Instr :=
  .xferBegin bytes.length :: bytes.map .xferByte

/-- `SEC p0 p1 p2` (R110). -/
def secStimulus (p0 p1 p2 : Byte) : Stimulus :=
  ⟨.xfer, 8, List.replicate 5 0x00#8 ++ [p0, p1, p2]⟩

/-- `PRI p0 ... p16` (R110). -/
def priStimulus (payload : Vector Byte 17) : Stimulus :=
  ⟨.xfer, 22, List.replicate 5 0x00#8 ++ payload.toList⟩

/-- `FRAME f0 ... f19` (R110): the Secondary, then the Primary. -/
def frameStimuli (f : Snapshot) : List Stimulus :=
  [secStimulus f[0] f[1] f[2],
   priStimulus (Vector.ofFn fun k => f[k.val + 3]'(by omega))]

/-- The Level T part of a state (R49). -/
structure LevelT where
  frame      : Memory
  frameReady : Bool
  ds         : Option DisplayState
  dsValid    : Bool
  deriving DecidableEq, Repr

/-- The projection that forgets the sequencing registers (R49), meant for states with
`rx_active = 0`. -/
def State.levelT (s : State) : LevelT where
  frame := s.frame
  frameReady := s.frameReady
  ds := s.ds
  dsValid := s.dsValid

end Sys2Proof.Machine
end

