-- ==== Sys2Proof/Safety.lean ====
section
/-!
DEFINITION. What counts as a safe state and a safe run, in the terms the statements use: the
invariants of R48, R179 and R233, the quiescent and settled states, and facts about sequences of
transfers.
-/

namespace Sys2Proof.Machine

/-- No transfer in progress (R233). -/
abbrev State.Quiescent (s : State) : Prop := s.rxActive = false

/-- Quiescent, and every completed transfer consumed (R233). -/
abbrev State.Settled (s : State) : Prop := s.rxActive = false ∧ s.frameReady = false

/-- R48 (a): while a transfer is in progress, a byte of it is outstanding. -/
abbrev State.RxOk (s : State) : Prop := s.rxActive = true → s.rxIdx < s.rxLen

/-- R37: `DS` has a value exactly while `ds_valid` is 1. -/
abbrev State.DisplayOk (s : State) : Prop := s.dsValid = s.ds.isSome

/-- What makes R233 hold step by step: with `frame_ready` 0 and no recognised transfer in progress, a
valid `DS` is the interpretation of the frame. -/
abbrev State.Current (s : State) : Prop :=
  s.dsValid = true → s.frameReady = false → (s.rxActive = true → recognised s.rxLen = false) →
    s.ds = some (interpretFn s.cfg.tables (snapshot s.frame))

/-- R179: under the Immediate policy `frame_ready` is 1 only inside the fused pair. -/
abbrev State.ImmediateOk (s : State) : Prop :=
  s.cfg.policy = .immediate → s.frameReady = false

/-- The invariant of the block: RawFrame in canonical form, a well-formed configuration (R222), and
the four conditions above. -/
abbrev State.Inv (s : State) : Prop :=
  s.frame.wf ∧ s.cfg.tables.WellFormed ∧ s.RxOk ∧ s.DisplayOk ∧ s.Current ∧ s.ImmediateOk

/-- A whole transfer, with the number of bytes it declares. -/
def isTransfer : Instr → Bool
  | .xferPri bytes => decide (bytes.length = 22)
  | .xferSec bytes => decide (bytes.length = 8)
  | .xferIgn len bytes => decide (len ≠ 22 ∧ len ≠ 8 ∧ bytes.length = len)
  | .xferBegin _ | .xferByte _ | .interpret | .reset | .frdySet | .frdyClr => false
  | .segdec _ | .glydecU _ | .glydecP _ | .bittest _ _ _ | .annun _ | .bar _ | .digits _ => false
  | .dpoints _ | .sign _ | .unit _ | .prefixGlyph _ | .signPos _ | .signNeg _ | .signNone _ => false
  | .annunRem _ | .unitV | .unitOmega | .unitUnknown _ | .prefixUnknown _ => false
  | .segdecUnknown _ => false

/-- The bytes of the last Primary transfer of a sequence, if any. -/
def lastPrimary : List Instr → Option (List Byte)
  | [] => none
  | i :: is =>
    match lastPrimary is, i with
    | some b, _ => some b
    | none, .xferPri b => some b
    | none, _ => none

/-- The bytes of the last Secondary transfer of a sequence, if any. -/
def lastSecondary : List Instr → Option (List Byte)
  | [] => none
  | i :: is =>
    match lastSecondary is, i with
    | some b, _ => some b
    | none, .xferSec b => some b
    | none, _ => none

/-- Whether an operation, run in a state, completes a recognised transfer (R190). -/
def completesRecognised (i : Instr) (s : State) : Bool :=
  match i with
  | .xferPri _ => true
  | .xferSec _ => true
  | .xferByte _ => recognised s.rxLen && decide (s.rxIdx + 1 = s.rxLen)
  | .xferIgn _ _ | .xferBegin _ | .interpret | .reset | .frdySet | .frdyClr => false
  | .segdec _ | .glydecU _ | .glydecP _ | .bittest _ _ _ | .annun _ | .bar _ | .digits _ => false
  | .dpoints _ | .sign _ | .unit _ | .prefixGlyph _ | .signPos _ | .signNeg _ | .signNone _ => false
  | .annunRem _ | .unitV | .unitOmega | .unitUnknown _ | .prefixUnknown _ => false
  | .segdecUnknown _ => false

/-- The same state under the other policy: for comparing an Immediate run with a Polled one (R179). -/
def State.withPolicy (s : State) (p : InterpPolicy) : State :=
  { s with cfg := { s.cfg with policy := p } }

end Sys2Proof.Machine
end

