-- ==== Sys2Proof/Certificates/Slice0/Obligations.lean ====
section
/-!
DEFINITION. The statements for the provers, from the numbered rules of spec/. A snapshot's bit is
written `getLsbD n` (R12: bit 0 is the least significant); a byte of RawFrame is written `s.rf o`.
-/

open Sys2Proof Sys2Proof.Machine

/-! ## Reset -/

/-- R47, R220: the state after RESET, row by row, from every state; the configuration is unchanged.
Every row but RawFrame's is the spec's decision D10 (D11 for `DS`). -/
def Obligations.ResetGivesTheResetTable : Prop :=
  ∀ s : State, ∃ t, exec .reset s = .next t ∧
    (∀ o, t.rf o = s.cfg.resetSentinel) ∧ t.frameReady = false ∧ t.rxActive = false ∧
    t.rxIdx = 0 ∧ t.rxLen = 0 ∧ t.dsValid = false ∧ t.ds = none ∧ t.cfg = s.cfg

/-- The model's initial state: the reset table with the default sentinel 0xFF (R8, R47), the Polled
policy (log entry 6), nothing presented and nothing returned (log entries 1 and 11). -/
def Obligations.InitialStateIsTheDefaultReset : Prop :=
  (∀ o, State.reset.rf o = 0xFF#8) ∧ State.reset.frameReady = false ∧
    State.reset.rxActive = false ∧ State.reset.rxIdx = 0 ∧ State.reset.rxLen = 0 ∧
    State.reset.dsValid = false ∧ State.reset.ds = none ∧
    State.reset.cfg.resetSentinel = 0xFF#8 ∧ State.reset.cfg.policy = .polled ∧
    State.reset.inputs = [] ∧ State.reset.result = none

/-- RESET with the default sentinel leaves exactly the initial state, but for the configuration and
the stimuli still to come (log entry 26 for the model's own fields). -/
def Obligations.ResetReturnsToTheInitialState : Prop :=
  ∀ s : State, s.cfg.resetSentinel = 0xFF#8 →
    exec .reset s = .next { State.reset with cfg := s.cfg, inputs := s.inputs }

/-! ## The Reassembler -/

/-- R121: XFER.PRI stores bytes 5 to 21 at offsets 3 to 19 and leaves offsets 0 to 2; as a step of its
own (the Polled policy) it raises `frame_ready` and leaves `DS` and `ds_valid`. `rx_active`, the
configuration and the model's own fields are unchanged; for `rx_len` and `rx_idx` see
`WholeTransfersKeepTheSequencingRegisters`, for what the Immediate policy fuses to the transfer
`ImmediateTransfersInterpretAtOnce`. -/
def Obligations.PrimaryTransferStoresItsPayload : Prop :=
  ∀ (s : State) (bytes : List Byte), s.rxActive = false → bytes.length = 22 →
    ∃ t, exec (.xferPri bytes) s = .next t ∧
      (∀ o : Offset, 3 ≤ o.val → bytes[o.val + 2]? = some (t.rf o)) ∧
      (∀ o : Offset, o.val < 3 → t.rf o = s.rf o) ∧
      (s.cfg.policy = .polled → t.frameReady = true ∧ t.ds = s.ds ∧ t.dsValid = s.dsValid) ∧
      t.rxActive = s.rxActive ∧ t.cfg = s.cfg ∧ t.inputs = s.inputs ∧ t.result = s.result

/-- R122: XFER.SEC stores bytes 5 to 7 at offsets 0 to 2 and leaves offsets 3 to 19; policies and frame
as for XFER.PRI. -/
def Obligations.SecondaryTransferStoresItsPayload : Prop :=
  ∀ (s : State) (bytes : List Byte), s.rxActive = false → bytes.length = 8 →
    ∃ t, exec (.xferSec bytes) s = .next t ∧
      (∀ o : Offset, o.val < 3 → bytes[o.val + 5]? = some (t.rf o)) ∧
      (∀ o : Offset, 3 ≤ o.val → t.rf o = s.rf o) ∧
      (s.cfg.policy = .polled → t.frameReady = true ∧ t.ds = s.ds ∧ t.dsValid = s.dsValid) ∧
      t.rxActive = s.rxActive ∧ t.cfg = s.cfg ∧ t.inputs = s.inputs ∧ t.result = s.result

/-- R123: XFER.IGN consumes its bytes and changes no state; that `frame_ready` keeps its value is the
spec's decision D7, that `rx_len` and `rx_idx` keep theirs the model's choice (log entry 8). -/
def Obligations.IgnoredTransferChangesNothing : Prop :=
  ∀ (s : State) (len : Nat) (bytes : List Byte), s.rxActive = false → len ≠ 22 → len ≠ 8 →
    bytes.length = len → exec (.xferIgn len bytes) s = .next s

/-- The model's choice (log entry 8): a whole transfer of any length keeps `rx_len`, `rx_idx` and
`rx_active`, which exist at Level B only (R25 to R27). -/
def Obligations.WholeTransfersKeepTheSequencingRegisters : Prop :=
  ∀ (i : Instr) (s : State), isTransfer i = true → s.rxActive = false →
    ∃ t, exec i s = .next t ∧ t.rxLen = s.rxLen ∧ t.rxIdx = s.rxIdx ∧ t.rxActive = s.rxActive

/-- R124 (the spec's decision D4): XFER_BEGIN latches the length, clears the index, and marks the transfer in progress where it
has bytes; nothing else changes. -/
def Obligations.BeginLatchesTheLength : Prop :=
  ∀ (s : State) (len : Nat), s.rxActive = false →
    exec (.xferBegin len) s =
      .next { s with rxLen := len, rxIdx := 0, rxActive := decide (0 < len) }

/-- R125: XFER_BYTE stores the byte at `rx_idx - 2` (Primary) or `rx_idx - 5` (Secondary) or drops it,
advances `rx_idx`, and at the last declared byte lowers `rx_active` and, for a recognised length,
raises `frame_ready` (under the Polled policy; for the Immediate one see
`ImmediateTransfersInterpretAtOnce`). The Level B events are the spec's decision D4. -/
def Obligations.ByteOfATransferIsStoredOrDropped : Prop :=
  ∀ (s : State) (b : Byte), s.rxActive = true →
    ∃ t, exec (.xferByte b) s = .next t ∧
      (∀ o : Offset, t.rf o =
        if (s.rxLen = 22 ∧ 5 ≤ s.rxIdx ∧ o.val = s.rxIdx - 2) ∨
           (s.rxLen = 8 ∧ 5 ≤ s.rxIdx ∧ o.val = s.rxIdx - 5) then b else s.rf o) ∧
      t.rxLen = s.rxLen ∧ t.rxIdx = s.rxIdx + 1 ∧
      t.rxActive = decide (s.rxIdx + 1 ≠ s.rxLen) ∧
      (¬(s.rxIdx + 1 = s.rxLen ∧ (s.rxLen = 22 ∨ s.rxLen = 8)) →
        t.frameReady = s.frameReady ∧ t.ds = s.ds ∧ t.dsValid = s.dsValid) ∧
      (s.rxIdx + 1 = s.rxLen → s.rxLen = 22 ∨ s.rxLen = 8 → s.cfg.policy = .polled →
        t.frameReady = true ∧ t.ds = s.ds ∧ t.dsValid = s.dsValid) ∧
      t.cfg = s.cfg ∧ t.inputs = s.inputs ∧ t.result = s.result

/-- R129 (the spec's decision D5): the ill-formed events have no step; the model refuses them by name
(log entries 8 and 9). -/
def Obligations.IllFormedEventsAreRefused : Prop :=
  (∀ (s : State) (len : Nat), s.rxActive = true →
    exec (.xferBegin len) s = .refused .transferInProgress) ∧
  (∀ (s : State) (b : Byte), s.rxActive = false →
    exec (.xferByte b) s = .refused .noTransferInProgress) ∧
  (∀ (len : Nat) (bytes : List Byte), bytes.length ≠ len →
    decode ⟨.xfer, len, bytes⟩ = .error (.byteCount len bytes.length)) ∧
  (∀ (s : State) (i : Instr), isTransfer i = true → s.rxActive = true →
    exec i s = .refused .transferInProgress) ∧
  (∀ (s : State) (bytes : List Byte), s.rxActive = false → bytes.length ≠ 22 →
    exec (.xferPri bytes) s = .refused (.byteCountMismatch 22 bytes.length)) ∧
  (∀ (s : State) (bytes : List Byte), s.rxActive = false → bytes.length ≠ 8 →
    exec (.xferSec bytes) s = .refused (.byteCountMismatch 8 bytes.length)) ∧
  (∀ (s : State) (len : Nat) (bytes : List Byte), s.rxActive = false → len ≠ 22 → len ≠ 8 →
    bytes.length ≠ len → exec (.xferIgn len bytes) s = .refused (.byteCountMismatch len bytes.length)) ∧
  ∀ (s : State) (len : Nat) (bytes : List Byte), len = 22 ∨ len = 8 →
    exec (.xferIgn len bytes) s = .refused (.recognisedLength len)

/-- R103: the declared length alone selects the operation, 22 first, then 8, else ignored. -/
def Obligations.DeclaredLengthSelectsTheOperation : Prop :=
  ∀ bytes : List Byte,
    (bytes.length = 22 → decode ⟨.xfer, bytes.length, bytes⟩ = .ok (.xferPri bytes)) ∧
    (bytes.length = 8 → decode ⟨.xfer, bytes.length, bytes⟩ = .ok (.xferSec bytes)) ∧
    (bytes.length ≠ 22 → bytes.length ≠ 8 →
      decode ⟨.xfer, bytes.length, bytes⟩ = .ok (.xferIgn bytes.length bytes))

/-- R90, R108 (a): two transfers of one length that differ only in the five preamble bytes have the
same outcome in every state, at either level. -/
def Obligations.PreambleBytesHaveNoEffect : Prop :=
  ∀ (s : State) (xs ys : List Byte), xs.length = ys.length → xs.drop 5 = ys.drop 5 →
    exec (selectTransfer xs.length xs) s = exec (selectTransfer ys.length ys) s ∧
    execAll (levelB xs) s = execAll (levelB ys) s

/-- R126: the byte-serial sequence of a transfer, from a quiescent state, ends quiescent with the
Level T effect of the whole transfer. -/
def Obligations.ByteSerialRefinesWholeTransfer : Prop :=
  ∀ (s : State) (bytes : List Byte), s.rxActive = false →
    ∃ t u, execAll (levelB bytes) s = .next t ∧
      exec (selectTransfer bytes.length bytes) s = .next u ∧
      t.rxActive = false ∧ t.levelT = u.levelT ∧ t.cfg = u.cfg ∧ t.inputs = u.inputs

/-- R128: after any sequence of transfers, offsets 3 to 19 hold the payload of the most recent Primary
and offsets 0 to 2 that of the most recent Secondary, or what they held before where there is none. -/
def Obligations.FrameHoldsTheLatestPayloads : Prop :=
  ∀ (ops : List Instr) (s : State), s.rxActive = false → (∀ i ∈ ops, isTransfer i = true) →
    ∃ t, execAll ops s = .next t ∧ t.rxActive = false ∧
      (∀ o : Offset, 3 ≤ o.val →
        (lastPrimary ops = none → t.rf o = s.rf o) ∧
        ∀ b, lastPrimary ops = some b → b[o.val + 2]? = some (t.rf o)) ∧
      ∀ o : Offset, o.val < 3 →
        (lastSecondary ops = none → t.rf o = s.rf o) ∧
        ∀ b, lastSecondary ops = some b → b[o.val + 5]? = some (t.rf o)

/-- R179 (the spec's decision D8): under the Immediate policy the step that completes a recognised
transfer ends interpreted: `frame_ready` 0, `ds_valid` 1, `DS` the interpretation of the frame it
leaves. -/
def Obligations.ImmediateTransfersInterpretAtOnce : Prop :=
  ∀ (i : Instr) (s t : State), s.cfg.policy = .immediate → completesRecognised i s = true →
    exec i s = .next t →
    t.frameReady = false ∧ t.dsValid = true ∧
      t.ds = some (interpretFn s.cfg.tables (snapshot t.frame))

/-! ## The frame-valid signaler -/

/-- R190, R191: the two effects write `frame_ready` and nothing else. -/
def Obligations.SignalEffectsWriteOnlyFrameReady : Prop :=
  ∀ s : State, exec .frdySet s = .next { s with frameReady := true } ∧
    exec .frdyClr s = .next { s with frameReady := false }

/-- R192 for whole transfers under the Polled policy: from a state in which INTERPRET or RESET has just
lowered it, `frame_ready` is 1 exactly when a recognised transfer has completed since. -/
def Obligations.FrameReadySaysATransferCompleted : Prop :=
  ∀ (ops : List Instr) (s : State), s.rxActive = false → s.frameReady = false →
    s.cfg.policy = .polled → (∀ i ∈ ops, isTransfer i = true) →
    ∃ t, execAll ops s = .next t ∧
      (t.frameReady = true ↔ (lastPrimary ops).isSome ∨ (lastSecondary ops).isSome)

/-- R70, R127: under the Polled policy only INTERPRET or RESET, presented by the environment, lowers
`frame_ready`. -/
def Obligations.OnlyInterpretOrResetLowersFrameReady : Prop :=
  ∀ s t : State, s.cfg.policy = .polled → step s = .next t → s.frameReady = true →
    t.frameReady = false →
    ∃ st rest, s.inputs = st :: rest ∧ (decode st = .ok .interpret ∨ decode st = .ok .reset)

/-- R190, R191: neither effect is an event of its own: a step takes none from the environment. -/
def Obligations.BareEffectsAreNoEvents : Prop :=
  ∀ (s : State) (rest : List Stimulus),
    step { s with inputs := encode .frdySet :: rest } = .refused (.notAnEvent "FRDY.SET") ∧
    step { s with inputs := encode .frdyClr :: rest } = .refused (.notAnEvent "FRDY.CLR")

/-! ## The decoders -/

/-- R141: SEGDEC gives the table's character for a key of the table and '?' for every other key. -/
def Obligations.SegmentDecoderFollowsItsTable : Prop :=
  ∀ (s : State) (key : Byte), s.cfg.tables.WellFormed → key &&& 0x08#8 = 0#8 →
    ∃ c, exec (.segdec key) s = .next { s with result := some (.char c) } ∧
      (∀ d, (key, d) ∈ s.cfg.tables.seg → c = d) ∧
      ((∀ d, (key, d) ∉ s.cfg.tables.seg) → c = '?')

/-- R151: GLYDEC.U gives the unit table's result and Blank for an unknown code; 0x0145 is Literal('V')
and 0x7007 is Directive(Omega) in every configuration, and the results are those of R41. -/
def Obligations.UnitDecoderFollowsItsTable : Prop :=
  ∀ (s : State) (code : Code), s.cfg.tables.WellFormed →
    ∃ g, exec (.glydecU code) s = .next { s with result := some (.glyph g) } ∧
      (∀ h, (code, h) ∈ s.cfg.tables.unit → g = h) ∧
      ((∀ h, (code, h) ∉ s.cfg.tables.unit) → g = .blank) ∧
      (code = 0x0145#16 → g = .literal 'V') ∧
      (code = 0x7007#16 → g = .directive .omega) ∧ (g = .blank ∨ g ∈ Config.unitResults)

/-- R152: GLYDEC.P gives the prefix table's result and Blank for an unknown code, and the results are
those of R42. -/
def Obligations.PrefixDecoderFollowsItsTable : Prop :=
  ∀ (s : State) (code : Code), s.cfg.tables.WellFormed →
    ∃ g, exec (.glydecP code) s = .next { s with result := some (.glyph g) } ∧
      (∀ h, (code, h) ∈ s.cfg.tables.prefixTable → g = h) ∧
      ((∀ h, (code, h) ∉ s.cfg.tables.prefixTable) → g = .blank) ∧
      (g = .blank ∨ g ∈ Config.prefixResults)

/-- R105, R107: the two unit codes of the source, and the default rows: Blank or '?' for every code or
key that its table does not hold. -/
def Obligations.CodePointRowsGiveTheirResults : Prop :=
  ∀ s : State,
    exec .unitV s = .next { s with result := some (.glyph (.literal 'V')) } ∧
    exec .unitOmega s = .next { s with result := some (.glyph (.directive .omega)) } ∧
    (∀ code, (∀ g, (code, g) ∉ s.cfg.tables.unit) →
      exec (.unitUnknown code) s = .next { s with result := some (.glyph .blank) }) ∧
    (∀ code, (∀ g, (code, g) ∉ s.cfg.tables.prefixTable) →
      exec (.prefixUnknown code) s = .next { s with result := some (.glyph .blank) }) ∧
    ∀ key : Byte, key &&& 0x08#8 = 0#8 → (∀ c, (key, c) ∉ s.cfg.tables.seg) →
      exec (.segdecUnknown key) s = .next { s with result := some (.char '?') }

/-- R140: on a byte with bit 3 set SEGDEC gives what it gives on the byte with bit 3 cleared, "and no
other extension" (log entry 28). -/
def Obligations.SegmentDecoderIgnoresBitThree : Prop :=
  ∀ (s : State) (v : Byte), exec (.segdec v) s = exec (.segdec (v &&& 0xF7#8)) s

/-- The model's choice (log entry 14): the three default rows agree with the decoders on every operand,
so that a code the table holds gives its entry there too. -/
def Obligations.DefaultRowsAgreeWithTheDecoders : Prop :=
  ∀ (s : State) (code : Code) (key : Byte),
    exec (.unitUnknown code) s = exec (.glydecU code) s ∧
    exec (.prefixUnknown code) s = exec (.glydecP code) s ∧
    exec (.segdecUnknown key) s = exec (.segdec key) s

/-! ## The bitfield extractor -/

/-- R166: BITTEST gives the one bit the mask names. -/
def Obligations.BitTestReadsTheNamedBit : Prop :=
  ∀ (s : State) (f : Snapshot) (o : Offset) (n : Nat), n < 8 →
    exec (.bittest f o (1#8 <<< n)) s = .next { s with result := some (.flag (f[o].getLsbD n)) }

/-- R167: ANNUN gives one Boolean per triple of the table, in its order, each the named bit; REM is bit
1 of offset 16 in every well-formed configuration. -/
def Obligations.AnnunciatorsAreTheNamedBits : Prop :=
  ∀ (s : State) (f : Snapshot),
    ∃ l, exec (.annun f) s = .next { s with result := some (.annunciators l) } ∧
      l.map Prod.fst = s.cfg.tables.annun.map AnnunEntry.name ∧
      (∀ (k : Nat) (e : AnnunEntry) (n : Nat), s.cfg.tables.annun[k]? = some e → n < 8 →
        e.pos.mask = 1#8 <<< n → l[k]? = some (e.name, f[e.pos.offset].getLsbD n)) ∧
      (s.cfg.tables.WellFormed → ∀ b, (AnnunName.REM, b) ∈ l ↔ b = (f[16]).getLsbD 1)

/-- R168: BAR gives 17 bits, element `j` the bit BAR_TABLE's entry `j` names. -/
def Obligations.BargraphIsTheNamedBits : Prop :=
  ∀ (s : State) (f : Snapshot),
    ∃ v, exec (.bar f) s = .next { s with result := some (.bargraph v) } ∧
      ∀ (j : Fin 17) (n : Nat), n < 8 → s.cfg.tables.bar[j].mask = 1#8 <<< n →
        v[j] = (f[s.cfg.tables.bar[j].offset]).getLsbD n

/-- R169: DIGITS gives seven characters; character `i` is SEGDEC of the byte at offset `15 - i` with
bit 3 cleared. -/
def Obligations.DigitsDecodeTheMaskedBytes : Prop :=
  ∀ (s : State) (f : Snapshot), s.cfg.tables.WellFormed →
    ∃ v : Vector Char 7, exec (.digits f) s = .next { s with result := some (.digits v) } ∧
      ∀ (i : Fin 7) (o : Offset), o.val = 15 - i.val →
        (∀ c, (f[o] &&& 0xF7#8, c) ∈ s.cfg.tables.seg → v[i] = c) ∧
        ((∀ c, (f[o] &&& 0xF7#8, c) ∉ s.cfg.tables.seg) → v[i] = '?')

/-- R170: DPOINTS gives seven bits, position `p` the bit DP_TABLE's entry `p` names, on the unmasked
byte. -/
def Obligations.DecimalPointsAreTheNamedBits : Prop :=
  ∀ (s : State) (f : Snapshot),
    ∃ v, exec (.dpoints f) s = .next { s with result := some (.decimalPoints v) } ∧
      ∀ (p : Fin 7) (n : Nat), n < 8 → s.cfg.tables.dp[p].mask = 1#8 <<< n →
        v[p] = (f[s.cfg.tables.dp[p].offset]).getLsbD n

/-- R171: SIGN is Positive where bit 2 of offset 16 is set, Negative where it is clear and bit 6 is
set, None otherwise. -/
def Obligations.SignTestsPositiveFirst : Prop :=
  ∀ (s : State) (f : Snapshot),
    ∃ x, exec (.sign f) s = .next { s with result := some (.sign x) } ∧
      (f[16].getLsbD 2 = true → x = .positive) ∧
      (f[16].getLsbD 2 = false → f[16].getLsbD 6 = true → x = .negative) ∧
      (f[16].getLsbD 2 = false → f[16].getLsbD 6 = false → x = .noSign)

/-- R105, R171: the rows of the byte at offset 16 give their results on every byte they match, and a
byte a row does not match is refused (the model's choice, log entry 14). -/
def Obligations.FrameBitRowsGiveTheirResults : Prop :=
  ∀ (s : State) (v : Byte),
    (v.getLsbD 2 = true →
      exec (.signPos v) s = .next { s with result := some (.sign .positive) }) ∧
    (v.getLsbD 2 = false → exec (.signPos v) s = .refused (.rowDoesNotMatch "SIGN.POS")) ∧
    (v.getLsbD 2 = false → v.getLsbD 6 = true →
      exec (.signNeg v) s = .next { s with result := some (.sign .negative) }) ∧
    (¬(v.getLsbD 2 = false ∧ v.getLsbD 6 = true) →
      exec (.signNeg v) s = .refused (.rowDoesNotMatch "SIGN.NEG")) ∧
    (v.getLsbD 2 = false → v.getLsbD 6 = false →
      exec (.signNone v) s = .next { s with result := some (.sign .noSign) }) ∧
    (¬(v.getLsbD 2 = false ∧ v.getLsbD 6 = false) →
      exec (.signNone v) s = .refused (.rowDoesNotMatch "SIGN.NONE")) ∧
    (v.getLsbD 1 = true →
      exec (.annunRem v) s = .next { s with result := some (.annunciators [(.REM, true)]) }) ∧
    (v.getLsbD 1 = false → exec (.annunRem v) s = .refused (.rowDoesNotMatch "ANNUN.REM"))

/-- R172: UNIT looks the big-endian code of bytes 5 and 6 up in the unit table. -/
def Obligations.UnitGlyphFromBytesFiveAndSix : Prop :=
  ∀ (s : State) (f : Snapshot) (code : Code), s.cfg.tables.WellFormed →
    code.toNat = f[5].toNat * 256 + f[6].toNat →
    ∃ g, exec (.unit f) s = .next { s with result := some (.glyph g) } ∧
      (∀ h, (code, h) ∈ s.cfg.tables.unit → g = h) ∧
      ((∀ h, (code, h) ∉ s.cfg.tables.unit) → g = .blank)

/-- R173: PREFIX looks the big-endian code of bytes 3 and 4 up in the prefix table. -/
def Obligations.PrefixGlyphFromBytesThreeAndFour : Prop :=
  ∀ (s : State) (f : Snapshot) (code : Code), s.cfg.tables.WellFormed →
    code.toNat = f[3].toNat * 256 + f[4].toNat →
    ∃ g, exec (.prefixGlyph f) s = .next { s with result := some (.glyph g) } ∧
      (∀ h, (code, h) ∈ s.cfg.tables.prefixTable → g = h) ∧
      ((∀ h, (code, h) ∉ s.cfg.tables.prefixTable) → g = .blank)

/-! ## INTERPRET -/

/-- R165: where its guard holds, INTERPRET recomputes `DS` whole from one snapshot, sets `ds_valid`,
lowers `frame_ready`, and changes nothing else. The guard and the clearing are the spec's decisions D6
and D9. -/
def Obligations.InterpretRecomputesTheDisplay : Prop :=
  ∀ s : State, s.frameReady = true → s.rxActive = false →
    exec .interpret s =
      .next { s with
        ds := some (interpretFn s.cfg.tables (snapshot s.frame)), dsValid := true,
        frameReady := false }

/-- The model's choice (log entry 10, from 95_test_vectors.md I1 and P2 to P4): INTERPRET whose guard
is false leaves the state as it is. -/
def Obligations.InterpretNotEnabledChangesNothing : Prop :=
  ∀ s : State, ¬(s.frameReady = true ∧ s.rxActive = false) → exec .interpret s = .next s

/-- R174: INTERPRET's display is, field by field, what its sub-operations return on the snapshot. -/
def Obligations.InterpretAgreesWithItsSubOperations : Prop :=
  ∀ s t : State, s.frameReady = true → s.rxActive = false → exec .interpret s = .next t →
    ∃ d, t.ds = some d ∧ ∀ u : State, u.cfg.tables = s.cfg.tables →
      let f := snapshot s.frame
      exec (.annun f) u = .next { u with result := some (.annunciators d.annunciators) } ∧
      exec (.digits f) u = .next { u with result := some (.digits d.digits) } ∧
      exec (.dpoints f) u = .next { u with result := some (.decimalPoints d.decimalPoints) } ∧
      exec (.sign f) u = .next { u with result := some (.sign d.sign) } ∧
      exec (.unit f) u = .next { u with result := some (.glyph d.unitGlyph) } ∧
      exec (.prefixGlyph f) u = .next { u with result := some (.glyph d.prefixGlyph) } ∧
      exec (.bar f) u = .next { u with result := some (.bargraph d.bargraph) }

/-- R176: what each field of `interpretFn` depends on. -/
def Obligations.EachFieldDependsOnItsOwnBits : Prop :=
  ∀ (t : Tables) (f g : Snapshot), t.WellFormed →
    (∀ (i : Fin 7) (o : Offset), o.val = 15 - i.val → f[o] &&& 0xF7#8 = g[o] &&& 0xF7#8 →
      (interpretFn t f).digits[i] = (interpretFn t g).digits[i]) ∧
    (f[16].getLsbD 2 = g[16].getLsbD 2 → f[16].getLsbD 6 = g[16].getLsbD 6 →
      (interpretFn t f).sign = (interpretFn t g).sign) ∧
    (f[5] = g[5] → f[6] = g[6] → (interpretFn t f).unitGlyph = (interpretFn t g).unitGlyph) ∧
    (f[3] = g[3] → f[4] = g[4] →
      (interpretFn t f).prefixGlyph = (interpretFn t g).prefixGlyph) ∧
    (f[16].getLsbD 1 = g[16].getLsbD 1 →
      annunciator (interpretFn t f) .REM = annunciator (interpretFn t g) .REM) ∧
    (∀ e ∈ t.annun, f[e.pos.offset] &&& e.pos.mask = g[e.pos.offset] &&& e.pos.mask →
      annunciator (interpretFn t f) e.name = annunciator (interpretFn t g) e.name) ∧
    (∀ p : Fin 7, f[t.dp[p].offset] &&& t.dp[p].mask = g[t.dp[p].offset] &&& t.dp[p].mask →
      (interpretFn t f).decimalPoints[p] = (interpretFn t g).decimalPoints[p]) ∧
    ∀ j : Fin 17, f[t.bar[j].offset] &&& t.bar[j].mask = g[t.bar[j].offset] &&& t.bar[j].mask →
      (interpretFn t f).bargraph[j] = (interpretFn t g).bargraph[j]

/-- R176, Q9: a Secondary transfer changes neither digits, sign, unit, prefix, decimal points nor REM
of the display an INTERPRET gives. -/
def Obligations.SecondaryLeavesTheReadingAlone : Prop :=
  ∀ (s t : State) (bytes : List Byte), s.cfg.tables.WellFormed →
    exec (.xferSec bytes) s = .next t →
    let d := interpretFn s.cfg.tables (snapshot s.frame)
    let e := interpretFn t.cfg.tables (snapshot t.frame)
    e.digits = d.digits ∧ e.sign = d.sign ∧ e.unitGlyph = d.unitGlyph ∧
      e.prefixGlyph = d.prefixGlyph ∧ e.decimalPoints = d.decimalPoints ∧
      annunciator e .REM = annunciator d .REM

/-- R177: the end-to-end properties the source requires, for every configuration consistent with its
§8: the reading "1234567" with REM and no sign and no point, and the two unit codes. -/
def Obligations.RequiredEndToEndReadings : Prop :=
  ∀ (t : Tables) (f : Snapshot), t.WellFormed → t.ConsistentWithS8 →
    (f[16] = 0x02#8 → (f[15], '1') ∈ t.seg → (f[14], '2') ∈ t.seg → (f[13], '3') ∈ t.seg →
      (f[12], '4') ∈ t.seg → (f[11], '5') ∈ t.seg → (f[10], '6') ∈ t.seg → (f[9], '7') ∈ t.seg →
      annunciator (interpretFn t f) .REM = some true ∧ (interpretFn t f).sign = .noSign ∧
      (interpretFn t f).digits.toList = ['1', '2', '3', '4', '5', '6', '7'] ∧
      ∀ p : Fin 7, (interpretFn t f).decimalPoints[p] = false) ∧
    (f[5] = 0x01#8 → f[6] = 0x45#8 → charOf (interpretFn t f).unitGlyph = some 'V') ∧
    (f[5] = 0x70#8 → f[6] = 0x07#8 → charOf (interpretFn t f).unitGlyph = none ∧
      directiveOf (interpretFn t f).unitGlyph = some .omega)

/-- R178: bytes that still hold the sentinel 0xFF are interpreted as data: every field that names such
an offset is lit, the sign is Positive, a digit is SEGDEC(0xF7), a glyph code is 0xFFFF. -/
def Obligations.SentinelBytesAreInterpretedAsData : Prop :=
  ∀ (t : Tables) (f : Snapshot), t.WellFormed →
    (∀ e ∈ t.annun, f[e.pos.offset] = 0xFF#8 → annunciator (interpretFn t f) e.name = some true) ∧
    (∀ p : Fin 7, f[t.dp[p].offset] = 0xFF#8 → (interpretFn t f).decimalPoints[p] = true) ∧
    (∀ j : Fin 17, f[t.bar[j].offset] = 0xFF#8 → (interpretFn t f).bargraph[j] = true) ∧
    (f[16] = 0xFF#8 → (interpretFn t f).sign = .positive) ∧
    (∀ (i : Fin 7) (o : Offset), o.val = 15 - i.val → f[o] = 0xFF#8 →
      (interpretFn t f).digits[i] = segmentChar t 0xF7#8) ∧
    (f[5] = 0xFF#8 → f[6] = 0xFF#8 → (interpretFn t f).unitGlyph = unitResult t 0xFFFF#16) ∧
    (f[3] = 0xFF#8 → f[4] = 0xFF#8 → (interpretFn t f).prefixGlyph = prefixResult t 0xFFFF#16)

/-- R72, R227: half-staleness is admitted: after SEC a, PRI b, INTERPRET, PRI d, INTERPRET the display
pairs the old offsets 0 to 2 with the new offsets 3 to 19. -/
def Obligations.HalfStaleSnapshotsHappen : Prop :=
  ∀ (s : State) (a b d : List Byte), s.rxActive = false → s.cfg.policy = .polled →
    a.length = 8 → b.length = 22 → d.length = 22 →
    ∃ t f, execAll [.xferSec a, .xferPri b, .interpret, .xferPri d, .interpret] s = .next t ∧
      t.ds = some (interpretFn s.cfg.tables f) ∧
      (∀ o : Offset, o.val < 3 → a[o.val + 5]? = some f[o]) ∧
      ∀ o : Offset, 3 ≤ o.val → d[o.val + 2]? = some f[o]

/-- R65, S8: a transfer that rewrites the bytes a Secondary stored, followed by a second INTERPRET,
gives the same display again. -/
def Obligations.ReinterpretingAnUnchangedFrameRepeats : Prop :=
  ∀ (s : State) (a : List Byte), s.rxActive = false → s.cfg.policy = .polled → a.length = 8 →
    ∃ t u, execAll [.xferSec a, .interpret] s = .next t ∧
      execAll [.xferSec a, .interpret] t = .next u ∧ u.ds = t.ds ∧ u.dsValid = t.dsValid ∧
      ∀ o, u.rf o = t.rf o

/-! ## The whole machine -/

/-- R21: RawFrame is written by transfers and RESET alone. -/
def Obligations.OnlyTransfersAndResetWriteTheFrame : Prop :=
  ∀ (i : Instr) (s t : State), exec i s = .next t → (∃ o, t.rf o ≠ s.rf o) →
    i = .reset ∨ (∃ b, i = .xferPri b) ∨ (∃ b, i = .xferSec b) ∨ ∃ b, i = .xferByte b

/-- R22, R65, R71: in every frame in canonical form, writing the same byte to the same offset twice is
writing it once, the later of two writes to one offset stands, the order of writes to two offsets is
not observable, and writing back what an offset holds changes nothing. -/
def Obligations.FrameWritesAreIdempotentAndUnordered : Prop :=
  ∀ (m : Memory) (p o : Offset) (v w : Byte), m.wf →
    writeByte (writeByte m p v) p v = writeByte m p v ∧
    writeByte (writeByte m p v) p w = writeByte m p w ∧
    (p ≠ o → writeByte (writeByte m p v) o w = writeByte (writeByte m o w) p v) ∧
    writeByte m p (readByte m p) = m

/-- R30, R68: whenever an operation changes `DS`, either RESET made it absent, or it is the
interpretation of one complete snapshot with no transfer in progress. -/
def Obligations.DisplayIsAlwaysOneWholeSnapshot : Prop :=
  ∀ (i : Instr) (s t : State), exec i s = .next t → t.ds ≠ s.ds →
    (i = .reset ∧ t.ds = none) ∨
    (t.rxActive = false ∧ t.ds = some (interpretFn t.cfg.tables (snapshot t.frame)))

/-- R30, R211: under the Polled policy `DS` and `ds_valid` are written by INTERPRET and RESET alone. -/
def Obligations.OnlyInterpretOrResetWritesTheDisplay : Prop :=
  ∀ (i : Instr) (s t : State), s.cfg.policy = .polled → exec i s = .next t →
    t.ds ≠ s.ds ∨ t.dsValid ≠ s.dsValid → i = .interpret ∨ i = .reset

/-- R38: no operation changes the configuration. -/
def Obligations.NoOperationChangesTheConfiguration : Prop :=
  ∀ (i : Instr) (s t : State), exec i s = .next t → t.cfg = s.cfg

/-- R25, R124, R125, R220 (the spec's decision D4): XFER_BEGIN and RESET set `rx_idx` to 0, XFER_BYTE
advances it by exactly 1, and every other operation leaves it as it is (for the whole transfers the
model's choice, log entry 8). -/
def Obligations.ReceiveIndexIsClearedOrAdvanced : Prop :=
  ∀ (i : Instr) (s t : State), exec i s = .next t →
    (i = .reset → t.rxIdx = 0) ∧
    (∀ n, i = .xferBegin n → t.rxIdx = 0) ∧
    (∀ b, i = .xferByte b → t.rxIdx = s.rxIdx + 1) ∧
    (i ≠ .reset → (∀ n, i ≠ .xferBegin n) → (∀ b, i ≠ .xferByte b) → t.rxIdx = s.rxIdx)

/-- R200, R226: an operation with well-formed operands always completes, but for the ill-formed input
of R129: the start of a transfer while one is in progress, and a byte outside a transfer. The model's
choices in it: INTERPRET whose guard is false completes with the state unchanged, where R13 and R165
give no step (log entry 10); the sub-operations and FRDY.SET and FRDY.CLR are operations of `exec`
(log entries 12 and 13); the default rows complete on the codes a table holds (log entry 14). -/
def Obligations.WellFormedOperationsAlwaysComplete : Prop :=
  ∀ (i : Instr) (s : State), i.wellFormed = true →
    (∃ t, exec i s = .next t) ∨
    (s.rxActive = true ∧ (isTransfer i = true ∨ ∃ n, i = .xferBegin n)) ∨
    (s.rxActive = false ∧ ∃ b, i = .xferByte b)

/-- R179, Q16: every Immediate run is a Polled run: an operation under the Immediate policy does what
the same operation does under the Polled policy, followed at once by INTERPRET where it completes a
recognised transfer. -/
def Obligations.ImmediateRunsArePolledRuns : Prop :=
  ∀ (i : Instr) (s t : State), s.cfg.policy = .immediate → exec i s = .next t →
    execAll (i :: if completesRecognised i s then [.interpret] else []) (s.withPolicy .polled) =
      .next (t.withPolicy .polled)

/-- The initial state meets the invariant (R47, R222). -/
def Obligations.InitialStateMeetsTheInvariant : Prop :=
  State.reset.Inv

/-- R48 (a), R37, R179, R222, R233: every step keeps the invariant: RawFrame in canonical form, a
well-formed configuration, a byte outstanding while a transfer is in progress, `DS` present exactly
while `ds_valid` is 1, `frame_ready` 0 between steps under the Immediate policy, and `DS` the
interpretation of RawFrame while nothing new was stored. -/
def Obligations.EveryStepKeepsTheInvariant : Prop :=
  ∀ s t : State, s.Inv → step s = .next t → t.Inv

/-- R233: on every schedule, from every state that meets the invariant, in a settled state with
`ds_valid` 1 the display is the interpretation of RawFrame. -/
def Obligations.SettledDisplayIsCurrentOnEverySchedule : Prop :=
  ∀ (k : Nat) (s t : State), s.Inv → Host.Core.run Sys2Proof.core k s = .next t → t.Settled →
    t.dsValid = true → t.ds = some (interpretFn t.cfg.tables (snapshot t.frame))

/-- A step runs the decoded operation: with a stimulus presented that selects an operation, and the
operation is no bare effect (log entry 13), the step is that operation on the state with the stimulus
taken. The inputs are a list of which a step takes the first by the model's choice (log entry 1); that
a step with none presented leaves the state unchanged is DEDUCED from R213 (log entry 2), and that a
stimulus which selects no operation is refused by name from R129 (log entry 9). -/
def Obligations.StepRunsTheDecodedOperation : Prop :=
  ∀ (s : State) (st : Stimulus) (rest : List Stimulus),
    (s.inputs = [] → step s = .next s) ∧
    (s.inputs = st :: rest → ∀ i, decode st = .ok i → i ≠ .frdySet → i ≠ .frdyClr →
      step s = exec i { s with inputs := rest }) ∧
    (s.inputs = st :: rest → ∀ e, decode st = .error e → step s = .refused (.undecodable e))

/-! ## Encoding -/

/-- Decoding and encoding agree both ways, for every operation and every stimulus: a stimulus decodes
to exactly the well-formed operation whose encoding it is. -/
def Obligations.DecodeAndEncodeAgree : Prop :=
  ∀ (st : Stimulus) (i : Instr), decode st = .ok i ↔ i.wellFormed = true ∧ encode i = st

/-- A few words written out from the spec's encodings (R91, R92, R93, R96, R97, R105). -/
def Obligations.SampleWordsDecode : Prop :=
  decode ⟨.xfer, 0x16, List.replicate 22 0x08#8⟩ = .ok (.xferPri (List.replicate 22 0x08#8)) ∧
  decode ⟨.xfer, 0x08, List.replicate 8 0x16#8⟩ = .ok (.xferSec (List.replicate 8 0x16#8)) ∧
  decode ⟨.xfer, 0x07, List.replicate 7 0x16#8⟩ = .ok (.xferIgn 7 (List.replicate 7 0x16#8)) ∧
  decode ⟨.frameSign, 0x44, []⟩ = .ok (.signPos 0x44#8) ∧
  decode ⟨.frameSign, 0x40, []⟩ = .ok (.signNeg 0x40#8) ∧
  decode ⟨.frameSign, 0x02, []⟩ = .ok (.signNone 0x02#8) ∧
  decode ⟨.frameRem, 0x46, []⟩ = .ok (.annunRem 0x46#8) ∧
  decode ⟨.glyphUnit, 0x0145, []⟩ = .ok .unitV ∧
  decode ⟨.glyphUnit, 0x7007, []⟩ = .ok .unitOmega ∧
  decode ⟨.glyphUnit, 0x4501, []⟩ = .ok (.unitUnknown 0x4501#16)
end

