-- ==== Sys2Proof/Laws/State.lean ====
section
/-!
SUPPORT. One lemma per field per update of State, so that no proof unfolds a record update.
-/

namespace Sys2Proof.Machine

variable (s : State)

@[simp] theorem State.setFrame_frame (m : Memory) : (s.setFrame m).frame = m := rfl
@[simp] theorem State.setFrame_rxLen (m : Memory) : (s.setFrame m).rxLen = s.rxLen := rfl
@[simp] theorem State.setFrame_rxIdx (m : Memory) : (s.setFrame m).rxIdx = s.rxIdx := rfl
@[simp] theorem State.setFrame_rxActive (m : Memory) : (s.setFrame m).rxActive = s.rxActive := rfl
@[simp] theorem State.setFrame_frameReady (m : Memory) : (s.setFrame m).frameReady = s.frameReady := rfl
@[simp] theorem State.setFrame_ds (m : Memory) : (s.setFrame m).ds = s.ds := rfl
@[simp] theorem State.setFrame_dsValid (m : Memory) : (s.setFrame m).dsValid = s.dsValid := rfl
@[simp] theorem State.setFrame_cfg (m : Memory) : (s.setFrame m).cfg = s.cfg := rfl
@[simp] theorem State.setFrame_inputs (m : Memory) : (s.setFrame m).inputs = s.inputs := rfl
@[simp] theorem State.setFrame_result (m : Memory) : (s.setFrame m).result = s.result := rfl

@[simp] theorem State.setRx_frame (n i : Nat) (b : Bool) : (s.setRx n i b).frame = s.frame := rfl
@[simp] theorem State.setRx_rxLen (n i : Nat) (b : Bool) : (s.setRx n i b).rxLen = n := rfl
@[simp] theorem State.setRx_rxIdx (n i : Nat) (b : Bool) : (s.setRx n i b).rxIdx = i := rfl
@[simp] theorem State.setRx_rxActive (n i : Nat) (b : Bool) : (s.setRx n i b).rxActive = b := rfl
@[simp] theorem State.setRx_frameReady (n i : Nat) (b : Bool) : (s.setRx n i b).frameReady = s.frameReady := rfl
@[simp] theorem State.setRx_ds (n i : Nat) (b : Bool) : (s.setRx n i b).ds = s.ds := rfl
@[simp] theorem State.setRx_dsValid (n i : Nat) (b : Bool) : (s.setRx n i b).dsValid = s.dsValid := rfl
@[simp] theorem State.setRx_cfg (n i : Nat) (b : Bool) : (s.setRx n i b).cfg = s.cfg := rfl
@[simp] theorem State.setRx_inputs (n i : Nat) (b : Bool) : (s.setRx n i b).inputs = s.inputs := rfl
@[simp] theorem State.setRx_result (n i : Nat) (b : Bool) : (s.setRx n i b).result = s.result := rfl

@[simp] theorem State.setFrameReady_frame (b : Bool) : (s.setFrameReady b).frame = s.frame := rfl
@[simp] theorem State.setFrameReady_rxLen (b : Bool) : (s.setFrameReady b).rxLen = s.rxLen := rfl
@[simp] theorem State.setFrameReady_rxIdx (b : Bool) : (s.setFrameReady b).rxIdx = s.rxIdx := rfl
@[simp] theorem State.setFrameReady_rxActive (b : Bool) : (s.setFrameReady b).rxActive = s.rxActive := rfl
@[simp] theorem State.setFrameReady_frameReady (b : Bool) : (s.setFrameReady b).frameReady = b := rfl
@[simp] theorem State.setFrameReady_ds (b : Bool) : (s.setFrameReady b).ds = s.ds := rfl
@[simp] theorem State.setFrameReady_dsValid (b : Bool) : (s.setFrameReady b).dsValid = s.dsValid := rfl
@[simp] theorem State.setFrameReady_cfg (b : Bool) : (s.setFrameReady b).cfg = s.cfg := rfl
@[simp] theorem State.setFrameReady_inputs (b : Bool) : (s.setFrameReady b).inputs = s.inputs := rfl
@[simp] theorem State.setFrameReady_result (b : Bool) : (s.setFrameReady b).result = s.result := rfl

@[simp] theorem State.setDisplay_frame (d : DisplayState) : (s.setDisplay d).frame = s.frame := rfl
@[simp] theorem State.setDisplay_rxLen (d : DisplayState) : (s.setDisplay d).rxLen = s.rxLen := rfl
@[simp] theorem State.setDisplay_rxIdx (d : DisplayState) : (s.setDisplay d).rxIdx = s.rxIdx := rfl
@[simp] theorem State.setDisplay_rxActive (d : DisplayState) : (s.setDisplay d).rxActive = s.rxActive := rfl
@[simp] theorem State.setDisplay_frameReady (d : DisplayState) : (s.setDisplay d).frameReady = s.frameReady := rfl
@[simp] theorem State.setDisplay_ds (d : DisplayState) : (s.setDisplay d).ds = some d := rfl
@[simp] theorem State.setDisplay_dsValid (d : DisplayState) : (s.setDisplay d).dsValid = true := rfl
@[simp] theorem State.setDisplay_cfg (d : DisplayState) : (s.setDisplay d).cfg = s.cfg := rfl
@[simp] theorem State.setDisplay_inputs (d : DisplayState) : (s.setDisplay d).inputs = s.inputs := rfl
@[simp] theorem State.setDisplay_result (d : DisplayState) : (s.setDisplay d).result = s.result := rfl

@[simp] theorem State.setInputs_frame (l : List Stimulus) : (s.setInputs l).frame = s.frame := rfl
@[simp] theorem State.setInputs_rxLen (l : List Stimulus) : (s.setInputs l).rxLen = s.rxLen := rfl
@[simp] theorem State.setInputs_rxIdx (l : List Stimulus) : (s.setInputs l).rxIdx = s.rxIdx := rfl
@[simp] theorem State.setInputs_rxActive (l : List Stimulus) : (s.setInputs l).rxActive = s.rxActive := rfl
@[simp] theorem State.setInputs_frameReady (l : List Stimulus) : (s.setInputs l).frameReady = s.frameReady := rfl
@[simp] theorem State.setInputs_ds (l : List Stimulus) : (s.setInputs l).ds = s.ds := rfl
@[simp] theorem State.setInputs_dsValid (l : List Stimulus) : (s.setInputs l).dsValid = s.dsValid := rfl
@[simp] theorem State.setInputs_cfg (l : List Stimulus) : (s.setInputs l).cfg = s.cfg := rfl
@[simp] theorem State.setInputs_inputs (l : List Stimulus) : (s.setInputs l).inputs = l := rfl
@[simp] theorem State.setInputs_result (l : List Stimulus) : (s.setInputs l).result = s.result := rfl

@[simp] theorem State.setResult_frame (r : OpResult) : (s.setResult r).frame = s.frame := rfl
@[simp] theorem State.setResult_rxLen (r : OpResult) : (s.setResult r).rxLen = s.rxLen := rfl
@[simp] theorem State.setResult_rxIdx (r : OpResult) : (s.setResult r).rxIdx = s.rxIdx := rfl
@[simp] theorem State.setResult_rxActive (r : OpResult) : (s.setResult r).rxActive = s.rxActive := rfl
@[simp] theorem State.setResult_frameReady (r : OpResult) : (s.setResult r).frameReady = s.frameReady := rfl
@[simp] theorem State.setResult_ds (r : OpResult) : (s.setResult r).ds = s.ds := rfl
@[simp] theorem State.setResult_dsValid (r : OpResult) : (s.setResult r).dsValid = s.dsValid := rfl
@[simp] theorem State.setResult_cfg (r : OpResult) : (s.setResult r).cfg = s.cfg := rfl
@[simp] theorem State.setResult_inputs (r : OpResult) : (s.setResult r).inputs = s.inputs := rfl
@[simp] theorem State.setResult_result (r : OpResult) : (s.setResult r).result = some r := rfl

@[simp] theorem State.withPolicy_frame (p : InterpPolicy) : (s.withPolicy p).frame = s.frame := rfl
@[simp] theorem State.withPolicy_rxLen (p : InterpPolicy) : (s.withPolicy p).rxLen = s.rxLen := rfl
@[simp] theorem State.withPolicy_rxIdx (p : InterpPolicy) : (s.withPolicy p).rxIdx = s.rxIdx := rfl
@[simp] theorem State.withPolicy_rxActive (p : InterpPolicy) : (s.withPolicy p).rxActive = s.rxActive := rfl
@[simp] theorem State.withPolicy_frameReady (p : InterpPolicy) : (s.withPolicy p).frameReady = s.frameReady := rfl
@[simp] theorem State.withPolicy_ds (p : InterpPolicy) : (s.withPolicy p).ds = s.ds := rfl
@[simp] theorem State.withPolicy_dsValid (p : InterpPolicy) : (s.withPolicy p).dsValid = s.dsValid := rfl
@[simp] theorem State.withPolicy_cfg (p : InterpPolicy) : (s.withPolicy p).cfg = { s.cfg with policy := p } := rfl
@[simp] theorem State.withPolicy_inputs (p : InterpPolicy) : (s.withPolicy p).inputs = s.inputs := rfl
@[simp] theorem State.withPolicy_result (p : InterpPolicy) : (s.withPolicy p).result = s.result := rfl

/-- Reading RawFrame through a state. -/
@[simp] theorem State.setFrame_rf (m : Memory) (o : Offset) : (s.setFrame m).rf o = readByte m o := rfl

/-- A state is determined by its fields; the order of the fields is State's. -/
theorem State.eq_of_fields {s t : State} (h1 : s.frame = t.frame) (h2 : s.rxLen = t.rxLen)
    (h3 : s.rxIdx = t.rxIdx) (h4 : s.rxActive = t.rxActive) (h5 : s.frameReady = t.frameReady)
    (h6 : s.ds = t.ds) (h7 : s.dsValid = t.dsValid) (h8 : s.cfg = t.cfg) (h9 : s.inputs = t.inputs)
    (h10 : s.result = t.result) : s = t := by
  cases s; cases t; simp_all

end Sys2Proof.Machine
end

