-- ==== Sys2Proof/Laws/Memory.lean ====
section
/-!
SUPPORT. RawFrame: what a read gives after a write, and that every operation keeps the canonical form.
-/

namespace Sys2Proof.Machine

/-- A read of an offset whose cells were erased. -/
theorem readCell_eraseCell (m : Memory) (a x : Nat) :
    readCell (eraseCell m a) x = if x = a then unlistedByte else readCell m x := by
  induction m with
  | nil => simp [eraseCell, readCell]
  | cons c m ih =>
    obtain ⟨b, w⟩ := c
    by_cases hb : b = a
    · subst hb
      rw [eraseCell, if_pos rfl, ih, readCell]
      by_cases hx : x = b
      · simp [hx]
      · simp [hx, Ne.symm hx]
    · rw [eraseCell, if_neg hb, readCell, readCell, ih]
      by_cases hx : b = x
      · subst hx; simp [hb]
      · simp [hx]

/-- A read after a cell was put in, where no cell of that offset stood before. -/
theorem readCell_insertCell (m : Memory) (a x : Nat) (v : Byte) (h : ∀ c ∈ m, c.1 ≠ a) :
    readCell (insertCell m a v) x = if x = a then v else readCell m x := by
  induction m with
  | nil => simp [insertCell, readCell, eq_comm]
  | cons c m ih =>
    obtain ⟨b, w⟩ := c
    have hb : b ≠ a := h (b, w) (by simp)
    have ih := ih fun c hc => h c (by simp [hc])
    by_cases hlt : a < b
    · simp [insertCell, hlt, readCell, eq_comm]
    · rw [insertCell, if_neg hlt, readCell, readCell, ih]
      by_cases hx : b = x
      · subst hx; simp [hb]
      · simp [hx]

theorem mem_eraseCell {m : Memory} {a : Nat} {c : Host.Cell} :
    c ∈ eraseCell m a ↔ c ∈ m ∧ c.1 ≠ a := by
  induction m with
  | nil => simp [eraseCell]
  | cons d m ih =>
    obtain ⟨b, w⟩ := d
    by_cases hb : b = a
    · rw [eraseCell, if_pos hb, ih]
      constructor
      · rintro ⟨h1, h2⟩; exact ⟨by simp [h1], h2⟩
      · rintro ⟨h1, h2⟩
        rcases List.mem_cons.1 h1 with rfl | h1
        · exact absurd hb h2
        · exact ⟨h1, h2⟩
    · rw [eraseCell, if_neg hb, List.mem_cons, List.mem_cons, ih]
      constructor
      · rintro (rfl | ⟨h1, h2⟩)
        · exact ⟨.inl rfl, hb⟩
        · exact ⟨.inr h1, h2⟩
      · rintro ⟨rfl | h1, h2⟩
        · exact .inl rfl
        · exact .inr ⟨h1, h2⟩

theorem mem_insertCell {m : Memory} {a : Nat} {v : Byte} {c : Host.Cell} :
    c ∈ insertCell m a v ↔ c = (a, v) ∨ c ∈ m := by
  induction m with
  | nil => simp [insertCell]
  | cons d m ih =>
    obtain ⟨b, w⟩ := d
    by_cases hlt : a < b
    · rw [insertCell, if_pos hlt, List.mem_cons]
    · rw [insertCell, if_neg hlt, List.mem_cons, ih, List.mem_cons]
      constructor
      · rintro (h | h | h)
        · exact .inr (.inl h)
        · exact .inl h
        · exact .inr (.inr h)
      · rintro (h | h | h)
        · exact .inr (.inl h)
        · exact .inl h
        · exact .inr (.inr h)

/-- A read after a write: the byte written at its offset, every other offset as before (R22). -/
theorem readCell_writeCell (m : Memory) (a x : Nat) (v : Byte) :
    readCell (writeCell m a v) x = if x = a then v else readCell m x := by
  unfold writeCell
  by_cases hv : v = unlistedByte
  · rw [if_pos hv, readCell_eraseCell, hv]
  · rw [if_neg hv, readCell_insertCell _ _ _ _ (fun c hc => (mem_eraseCell.1 hc).2),
      readCell_eraseCell]
    by_cases hx : x = a <;> simp [hx]

/-- A read after bytes were stored from an offset on. -/
theorem readCell_storeFrom (bs : List Byte) (m : Memory) (base x : Nat) :
    readCell (storeFrom m base bs) x =
      if base ≤ x ∧ x < base + bs.length then bs.getD (x - base) 0#8 else readCell m x := by
  induction bs generalizing m base with
  | nil => rw [storeFrom, if_neg (by rintro ⟨h1, h2⟩; rw [List.length_nil] at h2; omega)]
  | cons b bs ih =>
    rw [storeFrom, ih, readCell_writeCell]
    by_cases h1 : base + 1 ≤ x ∧ x < base + 1 + bs.length
    · have h2 : base ≤ x ∧ x < base + (b :: bs).length := by simp only [List.length_cons]; omega
      have h3 : x - base = (x - (base + 1)) + 1 := by omega
      rw [if_pos h1, if_pos h2, h3, List.getD_cons_succ]
    · rw [if_neg h1]
      by_cases hx : x = base
      · subst hx; simp
      · have h2 : ¬(base ≤ x ∧ x < base + (b :: bs).length) := by
          simp only [List.length_cons]; omega
        rw [if_neg hx, if_neg h2]

theorem pairwise_eraseCell {m : Memory} (a : Nat) (h : m.Pairwise fun x y => x.1 < y.1) :
    (eraseCell m a).Pairwise fun x y => x.1 < y.1 := by
  induction m with
  | nil => simp [eraseCell]
  | cons d m ih =>
    obtain ⟨b, w⟩ := d
    have h := List.pairwise_cons.1 h
    by_cases hb : b = a
    · rw [eraseCell, if_pos hb]; exact ih h.2
    · rw [eraseCell, if_neg hb]
      exact List.pairwise_cons.2 ⟨fun c hc => h.1 c (mem_eraseCell.1 hc).1, ih h.2⟩

theorem pairwise_insertCell {m : Memory} (a : Nat) (v : Byte) (hm : ∀ c ∈ m, c.1 ≠ a)
    (h : m.Pairwise fun x y => x.1 < y.1) :
    (insertCell m a v).Pairwise fun x y => x.1 < y.1 := by
  induction m with
  | nil => simp [insertCell]
  | cons d m ih =>
    obtain ⟨b, w⟩ := d
    have hb : b ≠ a := hm (b, w) (by simp)
    have h' := List.pairwise_cons.1 h
    by_cases hlt : a < b
    · rw [insertCell, if_pos hlt]
      refine List.pairwise_cons.2 ⟨fun c hc => ?_, h⟩
      rcases List.mem_cons.1 hc with rfl | hc
      · exact hlt
      · exact Nat.lt_trans hlt (h'.1 c hc)
    · rw [insertCell, if_neg hlt]
      refine List.pairwise_cons.2 ⟨fun c hc => ?_, ih (fun c hc => hm c (by simp [hc])) h'.2⟩
      rcases mem_insertCell.1 hc with rfl | hc
      · exact Nat.lt_of_le_of_ne (Nat.le_of_not_lt hlt) hb
      · exact h'.1 c hc

/-- A write inside the frame keeps the canonical form. -/
theorem wf_writeCell {m : Memory} {a : Nat} (v : Byte) (ha : a < 20) (h : m.wf) :
    (writeCell m a v).wf := by
  have he : (eraseCell m a).wf :=
    ⟨pairwise_eraseCell a h.1, fun c hc => h.2 c (mem_eraseCell.1 hc).1⟩
  unfold writeCell
  by_cases hv : v = unlistedByte
  · rw [if_pos hv]; exact he
  · rw [if_neg hv]
    refine ⟨pairwise_insertCell a v (fun c hc => (mem_eraseCell.1 hc).2) he.1, fun c hc => ?_⟩
    rcases mem_insertCell.1 hc with rfl | hc
    · exact ⟨ha, hv⟩
    · exact he.2 c hc

theorem wf_writeByte {m : Memory} (o : Offset) (v : Byte) (h : m.wf) : (writeByte m o v).wf :=
  wf_writeCell v o.isLt h

/-- Storing bytes inside the frame keeps the canonical form. -/
theorem wf_storeFrom {bs : List Byte} {m : Memory} {base : Nat} (hb : base + bs.length ≤ 20)
    (h : m.wf) : (storeFrom m base bs).wf := by
  induction bs generalizing m base with
  | nil => exact h
  | cons b bs ih =>
    simp only [List.length_cons] at hb
    exact ih (by omega) (wf_writeCell b (by omega) h)

theorem wf_nil : Memory.wf [] := ⟨List.Pairwise.nil, fun _ h => absurd h List.not_mem_nil⟩

/-- `RF[o]` after `RF[p] <- v` (R22). -/
theorem readByte_writeByte (m : Memory) (p o : Offset) (v : Byte) :
    readByte (writeByte m p v) o = if o = p then v else readByte m o := by
  simp [readByte, writeByte, readCell_writeCell, Fin.ext_iff]

/-- An offset below every listed one reads as unlisted. -/
theorem readCell_of_below {m : Memory} {a : Nat} (h : ∀ c ∈ m, a < c.1) :
    readCell m a = unlistedByte := by
  induction m with
  | nil => rfl
  | cons d m ih =>
    have hd := h d List.mem_cons_self
    rw [readCell, if_neg (by omega)]
    exact ih fun c hc => h c (List.mem_cons_of_mem d hc)

/-- Cell lists in canonical form that read alike are the same list. -/
theorem eq_of_readCell {m n : Memory} (hm : m.wf) (hn : n.wf)
    (h : ∀ a, readCell m a = readCell n a) : m = n := by
  induction m generalizing n with
  | nil =>
    cases n with
    | nil => rfl
    | cons e n =>
      have hv := h e.1
      rw [readCell, readCell, if_pos rfl] at hv
      exact absurd hv.symm (hn.2 e List.mem_cons_self).2
  | cons d m ih =>
    obtain ⟨hm1, hm2⟩ := List.pairwise_cons.1 hm.1
    have rm : readCell (d :: m) d.1 = d.2 := by rw [readCell, if_pos rfl]
    have hd := (hm.2 d List.mem_cons_self).2
    cases n with
    | nil => exact absurd ((h d.1).symm.trans rm).symm hd
    | cons e n =>
      obtain ⟨hn1, hn2⟩ := List.pairwise_cons.1 hn.1
      have rn : readCell (e :: n) e.1 = e.2 := by rw [readCell, if_pos rfl]
      have he := (hn.2 e List.mem_cons_self).2
      have below : ∀ (c : Host.Cell) (l : Memory) (a : Nat), (∀ x ∈ l, c.1 < x.1) → a < c.1 →
          readCell (c :: l) a = unlistedByte := fun c l a hl ha =>
        readCell_of_below fun x hx => by
          rcases List.mem_cons.1 hx with rfl | hx
          · exact ha
          · exact Nat.lt_trans ha (hl x hx)
      have hk : d.1 = e.1 := by
        rcases Nat.lt_trichotomy d.1 e.1 with hlt | heq | hgt
        · exact absurd (rm.symm.trans ((h d.1).trans (below e n d.1 hn1 hlt))) hd
        · exact heq
        · exact absurd (rn.symm.trans ((h e.1).symm.trans (below d m e.1 hm1 hgt))) he
      have hde : d = e := Prod.ext hk (by rw [← rm, ← rn, ← hk]; exact h d.1)
      subst hde
      congr 1
      refine ih ⟨hm2, fun c hc => hm.2 c (List.mem_cons_of_mem d hc)⟩
        ⟨hn2, fun c hc => hn.2 c (List.mem_cons_of_mem d hc)⟩ fun a => ?_
      by_cases ha : d.1 = a
      · subst ha
        rw [readCell_of_below hm1, readCell_of_below hn1]
      · have := h a
        rwa [readCell, readCell, if_neg ha, if_neg ha] at this

/-- `RF[o]` after bytes were stored from `base` on. -/
theorem readByte_storeFrom (bs : List Byte) (m : Memory) (base : Nat) (o : Offset) :
    readByte (storeFrom m base bs) o =
      if base ≤ o.val ∧ o.val < base + bs.length then bs.getD (o.val - base) 0#8
      else readByte m o :=
  readCell_storeFrom bs m base o.val

/-- Byte `o` of a snapshot is `RF[o]` (R68). -/
theorem getElem_snapshot (m : Memory) (i : Nat) (h : i < 20) :
    (snapshot m)[i] = readByte m ⟨i, h⟩ := by
  simp [snapshot]

/-- Byte `o` of a snapshot is `RF[o]`, for an offset. -/
@[simp] theorem getElem_snapshot_offset (m : Memory) (o : Offset) : (snapshot m)[o] = readByte m o :=
  getElem_snapshot m o.val o.isLt

/-- Two frames that read alike at every offset have the same snapshot. -/
theorem snapshot_congr {m n : Memory} (h : ∀ o : Offset, readByte m o = readByte n o) :
    snapshot m = snapshot n := by
  simp [snapshot, funext h]

end Sys2Proof.Machine
end

