-- ==== Sys2Proof/Laws/Operands.lean ====
section
/-!
SUPPORT. What the operand forms and the lookups give, in terms of bits and of table entries.
-/

namespace Sys2Proof.Machine

/-- A lookup of a key that stands in a table with distinct keys. -/
theorem lookup_of_mem {κ υ : Type} [DecidableEq κ] {t : List (κ × υ)} {k : κ} {v d : υ}
    (hn : (t.map Prod.fst).Nodup) (h : (k, v) ∈ t) : lookup t k d = v := by
  induction t with
  | nil => simp at h
  | cons e t ih =>
    obtain ⟨k', v'⟩ := e
    rw [List.map_cons, List.nodup_cons] at hn
    by_cases hk : k' = k
    · rcases List.mem_cons.1 h with he | ht
      · simp [lookup, hk, (Prod.mk.inj he).2]
      · subst hk; exact absurd (List.mem_map_of_mem (f := Prod.fst) ht) hn.1
    · rcases List.mem_cons.1 h with he | ht
      · exact absurd (Prod.mk.inj he).1.symm hk
      · rw [lookup, if_neg hk]; exact ih hn.2 ht

/-- A lookup of a key the table does not hold gives the default. -/
theorem lookup_of_not_mem {κ υ : Type} [DecidableEq κ] {t : List (κ × υ)} {k : κ} {d : υ}
    (h : ∀ v, (k, v) ∉ t) : lookup t k d = d := by
  induction t with
  | nil => rfl
  | cons e t ih =>
    obtain ⟨k', v'⟩ := e
    by_cases hk : k' = k
    · exact absurd (by simp [hk]) (h v')
    · rw [lookup, if_neg hk]
      exact ih fun v hv => h v (by simp [hv])

/-- A lookup gives an entry's value or the default. -/
theorem lookup_mem_or_default {κ υ : Type} [DecidableEq κ] (t : List (κ × υ)) (k : κ) (d : υ) :
    (k, lookup t k d) ∈ t ∨ lookup t k d = d := by
  induction t with
  | nil => exact .inr rfl
  | cons e t ih =>
    obtain ⟨k', v'⟩ := e
    by_cases hk : k' = k
    · subst hk; simp [lookup]
    · rw [lookup, if_neg hk]
      rcases ih with h | h
      · exact .inl (by simp [h])
      · exact .inr h

/-- The bits of a byte under a mask: the mask selects the one bit `n` (R12). -/
theorem bit_singleMask (v : Byte) (n : Nat) (hn : n < 8) :
    bit v (1#8 <<< n) = v.getLsbD n := by
  have h : ∀ (v : Byte) (n : Fin 8), bit v (1#8 <<< n.val) = v.getLsbD n.val := by decide
  exact h v ⟨n, hn⟩

/-- The segment key is already masked: masking twice is masking once. -/
@[simp] theorem segmentKey_segmentKey (v : Byte) : segmentKey (segmentKey v) = segmentKey v := by
  simp [segmentKey, BitVec.and_assoc]

/-- A byte with bit 3 clear is its own segment key (R140). -/
theorem segmentKey_of_clear (v : Byte) (h : v &&& 0x08#8 = 0#8) : segmentKey v = v := by
  revert v; unfold segmentKey; decide

/-- The segment key has bit 3 clear (R100). -/
theorem segmentKey_clear (v : Byte) : segmentKey v &&& 0x08#8 = 0#8 := by
  revert v; unfold segmentKey; decide

/-- The value of a glyph code: the high byte times 256 plus the low byte (R61, R101). -/
theorem glyphCode_toNat (hi lo : Byte) : (glyphCode hi lo).toNat = hi.toNat * 256 + lo.toNat := by
  have h1 : hi.toNat < 256 := hi.isLt
  have h2 : lo.toNat < 256 := lo.isLt
  have h3 : (hi.toNat * 256) ||| lo.toNat = hi.toNat * 256 + lo.toNat := by
    rw [show 256 = 2 ^ 8 from rfl, ← Nat.shiftLeft_eq, Nat.shiftLeft_add_eq_or_of_lt h2]
  simp only [glyphCode, BitVec.truncate_eq_setWidth, BitVec.toNat_or, BitVec.toNat_shiftLeft,
    BitVec.toNat_setWidth, Nat.shiftLeft_eq]
  rw [Nat.mod_eq_of_lt (by omega : hi.toNat < 2 ^ 16), Nat.mod_eq_of_lt (by omega),
    Nat.mod_eq_of_lt (by omega), show 2 ^ 8 = 256 from rfl, h3]

/-- The sign bits of a byte, by bit number (R171). -/
theorem signOfByte_bits (v : Byte) :
    signOfByte v = if v.getLsbD 2 then .positive else if v.getLsbD 6 then .negative else .noSign := by
  revert v; decide

/-- Where the byte at receivedIndex `i` goes (R91 to R93, R99). -/
theorem writeOffset_eq_some (len i : Nat) (o : Offset) :
    writeOffset len i = some o ↔
      (len = 22 ∧ 5 ≤ i ∧ o.val = i - 2) ∨ (len = 8 ∧ 5 ≤ i ∧ o.val = i - 5) := by
  have ho := o.isLt
  have h : ∀ n, toOffset n = some o ↔ o.val = n := fun n => by
    unfold toOffset
    by_cases hn : n < 20
    · simp [hn, Fin.ext_iff, eq_comm]
    · simp [hn]; omega
  unfold writeOffset
  by_cases h1 : len = 22 ∧ 5 ≤ i
  · rw [if_pos h1, h]; omega
  · rw [if_neg h1]
    by_cases h2 : len = 8 ∧ 5 ≤ i
    · rw [if_pos h2, h]; omega
    · rw [if_neg h2]; simp; omega

/-- An ignored transfer stores no byte (R93). -/
theorem writeOffset_ignored {len i : Nat} (h : recognised len = false) : writeOffset len i = none := by
  have h : len ≠ 22 ∧ len ≠ 8 := by simpa [recognised] using h
  simp [writeOffset, h.1, h.2]

/-- A preamble byte is stored nowhere (R90). -/
theorem writeOffset_preamble {len i : Nat} (h : i < 5) : writeOffset len i = none := by
  have : ¬5 ≤ i := by omega
  simp [writeOffset, this]

end Sys2Proof.Machine
end

