-- ==== Sys2Proof/Laws/Exec.lean ====
section
/-!
SUPPORT. What each shared operation can do, and once for all operations what `exec` answers.
-/

namespace Sys2Proof.Machine

@[simp] theorem raiseFrameReady_eq (s : State) : raiseFrameReady s = s.setFrameReady true := rfl

@[simp] theorem lowerFrameReady_eq (s : State) : lowerFrameReady s = s.setFrameReady false := rfl

theorem interpretEnabled_iff (s : State) :
    interpretEnabled s = true ↔ s.frameReady = true ∧ s.rxActive = false := by
  simp [interpretEnabled]

/-- The end of a recognised transfer under the Polled policy (R190). -/
theorem completeTransfer_polled {s : State} (h : s.cfg.policy = .polled) :
    completeTransfer s = s.setFrameReady true := by
  simp [completeTransfer, h]

/-- The end of a recognised transfer under the Immediate policy (R179): `frame_ready` is raised and
lowered again, and `DS` is the interpretation of the frame. -/
theorem completeTransfer_immediate {s : State} (h : s.cfg.policy = .immediate) :
    completeTransfer s =
      (s.setDisplay (interpretFn s.cfg.tables (snapshot s.frame))).setFrameReady false := by
  simp [completeTransfer, h, interpretNow, State.setFrameReady, State.setDisplay]

section
variable (s : State)

@[simp] theorem completeTransfer_frame : (completeTransfer s).frame = s.frame := by
  unfold completeTransfer; split <;> rfl
@[simp] theorem completeTransfer_rxLen : (completeTransfer s).rxLen = s.rxLen := by
  unfold completeTransfer; split <;> rfl
@[simp] theorem completeTransfer_rxIdx : (completeTransfer s).rxIdx = s.rxIdx := by
  unfold completeTransfer; split <;> rfl
@[simp] theorem completeTransfer_rxActive : (completeTransfer s).rxActive = s.rxActive := by
  unfold completeTransfer; split <;> rfl
@[simp] theorem completeTransfer_cfg : (completeTransfer s).cfg = s.cfg := by
  unfold completeTransfer; split <;> rfl
@[simp] theorem completeTransfer_inputs : (completeTransfer s).inputs = s.inputs := by
  unfold completeTransfer; split <;> rfl
@[simp] theorem completeTransfer_result : (completeTransfer s).result = s.result := by
  unfold completeTransfer; split <;> rfl

end

/-- The frame after one byte (R125): the byte at its write offset, every other offset as before. -/
theorem readByte_receiveByte (b : Byte) (s : State) (o : Offset) :
    readByte (receiveByte b s) o =
      if writeOffset s.rxLen s.rxIdx = some o then b else readByte s.frame o := by
  unfold receiveByte
  cases h : writeOffset s.rxLen s.rxIdx with
  | none => simp
  | some p =>
    simp only [readByte_writeByte, Option.some.injEq]
    by_cases hp : o = p
    · simp [hp]
    · simp [hp, Ne.symm hp]

theorem wf_receiveByte (b : Byte) (s : State) (h : s.frame.wf) : (receiveByte b s).wf := by
  unfold receiveByte
  split
  · exact wf_writeByte _ _ h
  · exact h

/-- A whole transfer answers a next state exactly where it is well-formed input (R90, R129). -/
theorem wholeTransfer_next {len : Nat} {bytes : List Byte} {s u t : State} :
    wholeTransfer len bytes s u = .next t ↔ s.rxActive = false ∧ bytes.length = len ∧ u = t := by
  unfold wholeTransfer
  cases s.rxActive <;> by_cases h : bytes.length = len <;> simp [h]

/-- The frame after a recognised transfer whose payload goes to `base` on. -/
theorem storePayload_rf (base : Nat) (bytes : List Byte) (s : State) (o : Offset) :
    (storePayload base bytes s).rf o =
      if base ≤ o.val ∧ o.val < base + (bytes.length - 5) then bytes.getD (o.val - base + 5) 0#8
      else s.rf o := by
  simp [storePayload, State.rf, readByte_storeFrom, List.getD_eq_getElem?_getD, Nat.add_comm]

/-- The state after one byte of a transfer in progress (R125). -/
def afterByte (b : Byte) (s : State) : State :=
  let t := s.setFrame (receiveByte b s)
  if s.rxIdx + 1 = s.rxLen then
    (if recognised s.rxLen then completeTransfer (t.setRx s.rxLen (s.rxIdx + 1) false)
     else t.setRx s.rxLen (s.rxIdx + 1) false)
  else t.setRx s.rxLen (s.rxIdx + 1) true

/-- Before the last declared byte: the byte taken, the index advanced. -/
theorem afterByte_mid (b : Byte) {s : State} (h : s.rxIdx + 1 ≠ s.rxLen) :
    afterByte b s = (s.setFrame (receiveByte b s)).setRx s.rxLen (s.rxIdx + 1) true := by
  simp [afterByte, h]

/-- The last byte of an ignored transfer. -/
theorem afterByte_ignored (b : Byte) {s : State} (h : s.rxIdx + 1 = s.rxLen)
    (hr : recognised s.rxLen = false) :
    afterByte b s = (s.setFrame (receiveByte b s)).setRx s.rxLen (s.rxIdx + 1) false := by
  simp [afterByte, h, hr]

/-- The last byte of a recognised transfer. -/
theorem afterByte_completes (b : Byte) {s : State} (h : s.rxIdx + 1 = s.rxLen)
    (hr : recognised s.rxLen = true) :
    afterByte b s =
      completeTransfer ((s.setFrame (receiveByte b s)).setRx s.rxLen (s.rxIdx + 1) false) := by
  simp [afterByte, h, hr]

section
variable (b : Byte) (s : State)

@[simp] theorem afterByte_frame : (afterByte b s).frame = receiveByte b s := by
  unfold afterByte; dsimp only; (repeat' split) <;> simp [*]
@[simp] theorem afterByte_rxLen : (afterByte b s).rxLen = s.rxLen := by
  unfold afterByte; dsimp only; (repeat' split) <;> simp [*]
@[simp] theorem afterByte_rxIdx : (afterByte b s).rxIdx = s.rxIdx + 1 := by
  unfold afterByte; dsimp only; (repeat' split) <;> simp [*]
@[simp] theorem afterByte_rxActive :
    (afterByte b s).rxActive = decide (s.rxIdx + 1 ≠ s.rxLen) := by
  unfold afterByte; dsimp only; (repeat' split) <;> simp [*]
@[simp] theorem afterByte_cfg : (afterByte b s).cfg = s.cfg := by
  unfold afterByte; dsimp only; (repeat' split) <;> simp [*]
@[simp] theorem afterByte_inputs : (afterByte b s).inputs = s.inputs := by
  unfold afterByte; dsimp only; (repeat' split) <;> simp [*]
@[simp] theorem afterByte_result : (afterByte b s).result = s.result := by
  unfold afterByte; dsimp only; (repeat' split) <;> simp [*]

end

theorem execXferByte_eq (b : Byte) (s : State) :
    execXferByte b s =
      if s.rxActive then .next (afterByte b s) else .refused .noTransferInProgress := by
  unfold execXferByte afterByte
  split
  · split <;> rfl
  · rfl

theorem framebitRow_next {m : String} {mask pattern v : Byte} {r : OpResult} {s t : State} :
    framebitRow m mask pattern v r s = .next t ↔ v &&& mask = pattern ∧ s.setResult r = t := by
  unfold framebitRow answer
  split <;> simp_all

/-- The state after RESET (R220). -/
def afterReset (s : State) : State :=
  { State.reset with
    frame := storeFrom [] 0 (List.replicate 20 s.cfg.resetSentinel)
    cfg := s.cfg
    inputs := s.inputs }

theorem afterReset_rf (s : State) (o : Offset) : (afterReset s).rf o = s.cfg.resetSentinel := by
  have h := o.isLt
  show readByte (storeFrom [] 0 _) o = _
  rw [readByte_storeFrom, if_pos (by simp)]
  rw [List.getD_eq_getElem?_getD, List.getElem?_replicate, if_pos (by omega)]
  rfl

/-- The pure operations: those that return a value and write no state of the block. -/
def isPure : Instr → Bool
  | .segdec _ | .glydecU _ | .glydecP _ | .bittest _ _ _ | .annun _ | .bar _ | .digits _ => true
  | .dpoints _ | .sign _ | .unit _ | .prefixGlyph _ | .signPos _ | .signNeg _ | .signNone _ => true
  | .annunRem _ | .unitV | .unitOmega | .unitUnknown _ | .prefixUnknown _ => true
  | .segdecUnknown _ => true
  | .xferPri _ | .xferSec _ | .xferIgn _ _ | .xferBegin _ | .xferByte _ | .interpret => false
  | .reset | .frdySet | .frdyClr => false

/-- Everything `exec` can answer as a next state. -/
inductive Effect (s : State) : Instr → State → Prop where
  | ignored (len : Nat) (bytes : List Byte) : recognised len = false → s.rxActive = false →
      bytes.length = len → Effect s (.xferIgn len bytes) s
  | notEnabled : interpretEnabled s = false → Effect s .interpret s
  | returned (i : Instr) (r : OpResult) : isPure i = true → Effect s i (s.setResult r)
  | primary (bytes : List Byte) : s.rxActive = false → bytes.length = 22 →
      Effect s (.xferPri bytes) (storePayload 3 bytes s)
  | secondary (bytes : List Byte) : s.rxActive = false → bytes.length = 8 →
      Effect s (.xferSec bytes) (storePayload 0 bytes s)
  | begun (len : Nat) : s.rxActive = false →
      Effect s (.xferBegin len) (s.setRx len 0 (decide (0 < len)))
  | received (b : Byte) : s.rxActive = true → Effect s (.xferByte b) (afterByte b s)
  | interpreted : s.frameReady = true → s.rxActive = false → Effect s .interpret (interpretNow s)
  | resetDone : Effect s .reset (afterReset s)
  | raised : Effect s .frdySet (s.setFrameReady true)
  | lowered : Effect s .frdyClr (s.setFrameReady false)

/-- What one operation can do: every next state is one of these effects. -/
theorem exec_effect {i : Instr} {s t : State} (h : exec i s = .next t) : Effect s i t := by
  cases i with
  | xferPri bytes => obtain ⟨h1, h2, rfl⟩ := wholeTransfer_next.1 h; exact .primary bytes h1 h2
  | xferSec bytes => obtain ⟨h1, h2, rfl⟩ := wholeTransfer_next.1 h; exact .secondary bytes h1 h2
  | xferIgn len bytes =>
    change execXferIgn len bytes s = _ at h
    unfold execXferIgn at h
    split at h
    · cases h
    · obtain ⟨h1, h2, rfl⟩ := wholeTransfer_next.1 h
      exact .ignored len bytes (by simpa using ‹¬recognised len = true›) h1 h2
  | xferBegin len =>
    change execXferBegin len s = _ at h
    unfold execXferBegin at h
    split at h
    · cases h
    · cases h; exact .begun len (by simpa using ‹¬s.rxActive = true›)
  | xferByte b =>
    change execXferByte b s = _ at h
    rw [execXferByte_eq] at h
    split at h
    · cases h; exact .received b ‹_›
    · cases h
  | interpret =>
    change execInterpret s = _ at h
    unfold execInterpret at h
    split at h
    · cases h
      have he := (interpretEnabled_iff s).1 ‹_›
      exact .interpreted he.1 he.2
    · cases h; exact .notEnabled (by simpa using ‹¬interpretEnabled s = true›)
  | reset => cases h; exact .resetDone
  | frdySet => cases h; exact .raised
  | frdyClr => cases h; exact .lowered
  | signPos v => obtain ⟨_, rfl⟩ := framebitRow_next.1 h; exact .returned _ _ rfl
  | signNeg v => obtain ⟨_, rfl⟩ := framebitRow_next.1 h; exact .returned _ _ rfl
  | signNone v => obtain ⟨_, rfl⟩ := framebitRow_next.1 h; exact .returned _ _ rfl
  | annunRem v => obtain ⟨_, rfl⟩ := framebitRow_next.1 h; exact .returned _ _ rfl
  | segdec _ => cases h; exact .returned _ _ rfl
  | glydecU _ => cases h; exact .returned _ _ rfl
  | glydecP _ => cases h; exact .returned _ _ rfl
  | bittest _ _ _ => cases h; exact .returned _ _ rfl
  | annun _ => cases h; exact .returned _ _ rfl
  | bar _ => cases h; exact .returned _ _ rfl
  | digits _ => cases h; exact .returned _ _ rfl
  | dpoints _ => cases h; exact .returned _ _ rfl
  | sign _ => cases h; exact .returned _ _ rfl
  | unit _ => cases h; exact .returned _ _ rfl
  | prefixGlyph _ => cases h; exact .returned _ _ rfl
  | unitV => cases h; exact .returned _ _ rfl
  | unitOmega => cases h; exact .returned _ _ rfl
  | unitUnknown _ => cases h; exact .returned _ _ rfl
  | prefixUnknown _ => cases h; exact .returned _ _ rfl
  | segdecUnknown _ => cases h; exact .returned _ _ rfl

/-- What one step can do: nothing where no stimulus is pending, else the effect of the operation the
first stimulus selects, on the state with that stimulus taken. -/
theorem step_effect {s t : State} (h : step s = .next t) :
    (s.inputs = [] ∧ t = s) ∨
    ∃ st rest i, s.inputs = st :: rest ∧ decode st = .ok i ∧ bareEffect i = none ∧
      Effect (s.setInputs rest) i t := by
  unfold step fetch at h
  cases hi : s.inputs with
  | nil =>
    rw [hi] at h
    cases h
    exact .inl ⟨rfl, rfl⟩
  | cons st rest =>
    rw [hi] at h
    cases hd : decode st with
    | error e => simp [present, hd] at h
    | ok i =>
      cases hb : bareEffect i with
      | some m => simp [present, hd, hb] at h
      | none =>
        simp only [present, hd, hb] at h
        exact .inr ⟨st, rest, i, rfl, hd, hb, exec_effect h⟩

end Sys2Proof.Machine
end

