-- ==== Sys2Proof/Laws/Interpreter.lean ====
section
/-!
SUPPORT. What each field of the interpretation of a snapshot is, one lemma per sub-operation, so that
no proof unfolds the tables' vectors and lists.
-/

namespace Sys2Proof.Machine

/-- Entries with distinct keys are told apart by their keys. -/
theorem eq_of_nodup_map {α β : Type} {g : α → β} {l : List α} (hn : (l.map g).Nodup) {x y : α}
    (hx : x ∈ l) (hy : y ∈ l) (h : g x = g y) : x = y := by
  induction l with
  | nil => simp at hx
  | cons a l ih =>
    rw [List.map_cons, List.nodup_cons] at hn
    rcases List.mem_cons.1 hx with hx | hx <;> rcases List.mem_cons.1 hy with hy | hy
    · rw [hx, hy]
    · exact absurd (List.mem_map_of_mem (f := g) hy) (by rw [← h, hx]; exact hn.1)
    · exact absurd (List.mem_map_of_mem (f := g) hx) (by rw [h, hy]; exact hn.1)
    · exact ih hn.2 hx hy

/-- A search by name finds the one entry of that name. -/
theorem find_of_mem {l : List (AnnunName × Bool)} (hn : (l.map Prod.fst).Nodup) {n : AnnunName}
    {b : Bool} (h : (n, b) ∈ l) : (l.find? fun e => e.1 = n) = some (n, b) := by
  induction l with
  | nil => simp at h
  | cons e t ih =>
    rw [List.map_cons, List.nodup_cons] at hn
    rcases List.mem_cons.1 h with h | h
    · subst h; simp
    · have hne : e.1 ≠ n := fun he =>
        hn.1 (he ▸ List.mem_map_of_mem (f := Prod.fst) h)
      rw [List.find?_cons_of_neg (by simpa using hne)]
      exact ih hn.2 h

/-- The annunciators' names are the table's (R167). -/
theorem annunOf_names (t : Tables) (f : Snapshot) :
    (annunOf t f).map Prod.fst = t.annun.map AnnunEntry.name := by
  simp [annunOf]

/-- The value of the annunciator of a triple of a well-formed table (R167). -/
theorem annunciator_interpretFn {t : Tables} (f : Snapshot) (hn : t.AnnunOk) {e : AnnunEntry}
    (he : e ∈ t.annun) :
    annunciator (interpretFn t f) e.name = some (bitTest f e.pos.offset e.pos.mask) := by
  have h : (e.name, bitTest f e.pos.offset e.pos.mask) ∈ annunOf t f :=
    List.mem_map.2 ⟨e, he, rfl⟩
  have hn : ((annunOf t f).map Prod.fst).Nodup := by rw [annunOf_names]; exact hn.1
  show ((annunOf t f).find? _).map Prod.snd = _
  rw [find_of_mem hn h]
  rfl

/-- REM, in every well-formed configuration (R167). -/
theorem annunciator_rem {t : Tables} (f : Snapshot) (hn : t.AnnunOk) :
    annunciator (interpretFn t f) .REM = some (bitTest f 16 0x02#8) :=
  annunciator_interpretFn f hn hn.2.2

/-- Element `j` of the bargraph (R168). -/
theorem barOf_get (t : Tables) (f : Snapshot) (j : Fin 17) :
    (barOf t f)[j] = bitTest f t.bar[j].offset t.bar[j].mask := by
  simp [barOf]

/-- Decimal point `p` (R170). -/
theorem pointsOf_get (t : Tables) (f : Snapshot) (p : Fin 7) :
    (pointsOf t f)[p] = bitTest f t.dp[p].offset t.dp[p].mask := by
  simp [pointsOf]

/-- Digit `i`, from the byte at offset `15 - i` (R169). -/
theorem digitsOf_get (t : Tables) (f : Snapshot) (i : Fin 7) (o : Offset) (ho : o.val = 15 - i.val) :
    (digitsOf t f)[i] = lookup t.seg (f[o] &&& 0xF7#8) '?' := by
  have h1 : (digitsOf t f)[i] = segmentChar t (segmentKey (f[15 - i.val]'(by omega))) := by
    simp [digitsOf]
  have h2 : f[15 - i.val]'(by omega) = f[o] := by simp [← ho]
  rw [h1, h2, segmentChar, segmentKey_segmentKey]
  rfl

/-- A bit test with the mask of bit `n` reads that bit (R166). -/
theorem bitTest_singleMask (f : Snapshot) (o : Offset) {n : Nat} (hn : n < 8) {m : Byte}
    (hm : m = 1#8 <<< n) : bitTest f o m = f[o].getLsbD n := by
  rw [hm, bitTest, bit_singleMask _ _ hn]

end Sys2Proof.Machine
end

