-- ==== Sys2Proof/Laws/PerInstr.lean ====
section
/-!
SUPPORT. The family RoundTrip: the stimulus of a well-formed operation decodes to it, one lemma per
constructor.
-/

namespace Sys2Proof

/-- A snapshot's bytes, read back. -/
theorem toSnapshot_toList (f : Snapshot) : toSnapshot f.toList = some f := by
  simp [toSnapshot, Vector.toList]

theorem decodeBare_ok (sel : Selector) (i : Instr) : decodeBare ⟨sel, 0, []⟩ i = .ok i := by
  simp [decodeBare]

theorem decodeByte_toNat (sel : Selector) (v : Byte) (k : Byte → Except DecodeError Instr) :
    decodeByte ⟨sel, v.toNat, []⟩ k = k v := by
  have h : v.toNat < 256 := v.isLt
  simp [decodeByte, h]

theorem decodeCode_toNat (sel : Selector) (c : Code) (k : Code → Instr) :
    decodeCode ⟨sel, c.toNat, []⟩ k = .ok (k c) := by
  have h : c.toNat < 65536 := c.isLt
  simp [decodeCode, h]

theorem decodeFrame_toList (sel : Selector) (f : Snapshot) (k : Snapshot → Instr) :
    decodeFrame ⟨sel, 0, f.toList⟩ k = .ok (k f) := by
  simp [decodeFrame, toSnapshot_toList]

theorem decodeKey_toNat (sel : Selector) (v : Byte) (k : Byte → Instr) (h : v &&& 0x08#8 = 0#8) :
    decodeKey ⟨sel, v.toNat, []⟩ k = .ok (k v) := by
  rw [decodeKey, decodeByte_toNat, if_pos h]

namespace Laws.RoundTrip

/-- Encoding then decoding a well-formed operation gives it back. -/
def Statement (i : Instr) : Prop :=
  i.wellFormed = true → decode (encode i) = .ok i

theorem xferPri (bytes : List Byte) : Statement (.xferPri bytes) := by
  intro h
  have h : bytes.length = 22 := by simpa [Instr.wellFormed] using h
  simp [encode, decode, h, selectTransfer]

theorem xferSec (bytes : List Byte) : Statement (.xferSec bytes) := by
  intro h
  have h : bytes.length = 8 := by simpa [Instr.wellFormed] using h
  simp [encode, decode, h, selectTransfer]

theorem xferIgn (len : Nat) (bytes : List Byte) : Statement (.xferIgn len bytes) := by
  intro h
  have h : len ≠ 22 ∧ len ≠ 8 ∧ bytes.length = len := by
    simpa only [Instr.wellFormed, decide_eq_true_eq] using h
  simp [encode, decode, h.1, h.2.1, h.2.2, selectTransfer]

theorem xferBegin (len : Nat) : Statement (.xferBegin len) := fun _ => rfl

theorem xferByte (b : Byte) : Statement (.xferByte b) := fun _ =>
  decodeByte_toNat .xferByte b fun b => .ok (.xferByte b)

theorem interpret : Statement .interpret := fun _ => rfl

theorem reset : Statement .reset := fun _ => rfl

theorem frdySet : Statement .frdySet := fun _ => rfl

theorem frdyClr : Statement .frdyClr := fun _ => rfl

theorem segdec (key : Byte) : Statement (.segdec key) := fun h =>
  decodeKey_toNat .segdec key .segdec (by simpa [Instr.wellFormed] using h)

theorem glydecU (code : Code) : Statement (.glydecU code) := fun _ =>
  decodeCode_toNat .glydecU code .glydecU

theorem glydecP (code : Code) : Statement (.glydecP code) := fun _ =>
  decodeCode_toNat .glydecP code .glydecP

theorem bittest (f : Snapshot) (offset : Offset) (mask : Byte) :
    Statement (.bittest f offset mask) := by
  intro h
  have h : isSingleBit mask = true := h
  have ho : offset.val < 256 := Nat.lt_trans offset.isLt (by decide)
  have hn : (BitVec.ofNat 8 offset.val).toNat = offset.val := by simp [Nat.mod_eq_of_lt ho]
  show decodeBittest ⟨.bittest, 0, BitVec.ofNat 8 offset.val :: mask :: f.toList⟩ = _
  simp only [decodeBittest, toSnapshot_toList, if_true, hn]
  rw [dif_pos ⟨offset.isLt, h⟩]

theorem annun (f : Snapshot) : Statement (.annun f) := fun _ => decodeFrame_toList .annun f .annun

theorem bar (f : Snapshot) : Statement (.bar f) := fun _ => decodeFrame_toList .bar f .bar

theorem digits (f : Snapshot) : Statement (.digits f) := fun _ =>
  decodeFrame_toList .digits f .digits

theorem dpoints (f : Snapshot) : Statement (.dpoints f) := fun _ =>
  decodeFrame_toList .dpoints f .dpoints

theorem sign (f : Snapshot) : Statement (.sign f) := fun _ => decodeFrame_toList .sign f .sign

theorem unit (f : Snapshot) : Statement (.unit f) := fun _ => decodeFrame_toList .unit f .unit

theorem prefixGlyph (f : Snapshot) : Statement (.prefixGlyph f) := fun _ =>
  decodeFrame_toList .prefixGlyph f .prefixGlyph

theorem signPos (v : Byte) : Statement (.signPos v) := by
  intro h
  have h : v &&& 0x04#8 = 0x04#8 := by simpa only [Instr.wellFormed, decide_eq_true_eq] using h
  show decodeByte ⟨.frameSign, v.toNat, []⟩ (fun v => .ok (decodeSignField v)) = _
  rw [decodeByte_toNat, decodeSignField, if_pos h]

/-- The three sign rows exclude one another (R171). -/
theorem not_signPos_of_clear {v p : Byte} (hp : p &&& 0x04#8 = 0#8) (h : v &&& 0x44#8 = p) :
    ¬v &&& 0x04#8 = 0x04#8 := by
  subst h; revert v; decide

theorem signNeg (v : Byte) : Statement (.signNeg v) := by
  intro h
  have h : v &&& 0x44#8 = 0x40#8 := by simpa only [Instr.wellFormed, decide_eq_true_eq] using h
  show decodeByte ⟨.frameSign, v.toNat, []⟩ (fun v => .ok (decodeSignField v)) = _
  rw [decodeByte_toNat, decodeSignField, if_neg (not_signPos_of_clear (by decide) h),
    if_pos h]

theorem signNone (v : Byte) : Statement (.signNone v) := by
  intro h
  have h : v &&& 0x44#8 = 0x00#8 := by simpa only [Instr.wellFormed, decide_eq_true_eq] using h
  show decodeByte ⟨.frameSign, v.toNat, []⟩ (fun v => .ok (decodeSignField v)) = _
  rw [decodeByte_toNat, decodeSignField, if_neg (not_signPos_of_clear (by decide) h),
    if_neg (by rw [h]; decide)]

theorem annunRem (v : Byte) : Statement (.annunRem v) := by
  intro h
  have h : v &&& 0x02#8 = 0x02#8 := by simpa only [Instr.wellFormed, decide_eq_true_eq] using h
  show decodeByte ⟨.frameRem, v.toNat, []⟩ decodeRemField = _
  rw [decodeByte_toNat, decodeRemField, if_pos h]

theorem unitV : Statement .unitV := fun _ => rfl

theorem unitOmega : Statement .unitOmega := fun _ => rfl

theorem unitUnknown (code : Code) : Statement (.unitUnknown code) := by
  intro h
  have h : code ≠ 0x0145#16 ∧ code ≠ 0x7007#16 := by
    simpa only [Instr.wellFormed, decide_eq_true_eq] using h
  show decodeCode ⟨.glyphUnit, code.toNat, []⟩ decodeUnitCode = _
  rw [decodeCode_toNat, decodeUnitCode, if_neg h.1, if_neg h.2]

theorem prefixUnknown (code : Code) : Statement (.prefixUnknown code) := fun _ =>
  decodeCode_toNat .glyphPrefix code .prefixUnknown

theorem segdecUnknown (key : Byte) : Statement (.segdecUnknown key) := fun h =>
  decodeKey_toNat .segKey key .segdecUnknown (by simpa [Instr.wellFormed] using h)

end Laws.RoundTrip

end Sys2Proof
end

