-- ==== Sys2Proof/Tests/Slice0.lean ====
section
/-!
SUPPORT. The model's own tests. Words are written out from the encodings of 30_encoding.md; expected
values come from 95_test_vectors.md, whose vector is named beside each. Each statement with hypotheses
has a `witness_` theorem: a state and operands that meet them.
-/

namespace Sys2Proof.Tests

open Sys2Proof.Machine

/-! ## Helpers -/

/-- CFG_EX (section 2). -/
def exCfg : Configuration := ⟨0xFF#8, .polled, Config.exampleTables⟩

/-- The reset state of CFG_EX. -/
def ex : State := { State.reset with cfg := exCfg }

/-- The reset state of CFG_EX under the Immediate policy. -/
def exImmediate : State := ex.withPolicy .immediate

/-- A state in the middle of a transfer. -/
def receiving (len idx : Nat) : State := { ex with rxLen := len, rxIdx := idx, rxActive := true }

def nextOf : Outcome → Option State
  | .next t => some t
  | .fault _ => none
  | .refused _ => none

def refusalOf : Outcome → Option Refusal
  | .next _ => none
  | .fault _ => none
  | .refused r => some r

def decoded (st : Stimulus) : Option Instr :=
  match decode st with
  | .ok i => some i
  | .error _ => none

def rejection (st : Stimulus) : Option DecodeError :=
  match decode st with
  | .ok _ => none
  | .error e => some e

/-- RF, offset 0 first, with `frame_ready` and `ds_valid`. -/
def frameAfter (o : Outcome) : Option (List Byte × Bool × Bool) :=
  (nextOf o).map fun t => ((snapshot t.frame).toList, t.frameReady, t.dsValid)

/-- `rx_len`, `rx_idx`, `rx_active`, `frame_ready`. -/
def rxAfter (o : Outcome) : Option (Nat × Nat × Bool × Bool) :=
  (nextOf o).map fun t => (t.rxLen, t.rxIdx, t.rxActive, t.frameReady)

def resultAfter (o : Outcome) : Option OpResult :=
  (nextOf o).bind State.result

/-- A snapshot of zeros but for the offsets of the cells. -/
def snap (cells : List (Nat × Byte)) : Snapshot :=
  Vector.ofFn fun o => ((cells.find? fun c => c.1 = o.val).map Prod.snd).getD 0#8

/-- The names that are true. -/
def lit (l : List (AnnunName × Bool)) : List AnnunName :=
  (l.filter Prod.snd).map Prod.fst

def zeros (n : Nat) : List Byte := List.replicate n 0x00#8

/-- S1's frame. -/
def s1Frame : Snapshot :=
  #v[0x00#8, 0x00#8, 0x00#8, 0x00#8, 0x00#8, 0x00#8, 0x00#8, 0x00#8, 0x00#8, 0x07#8,
     0xF5#8, 0xD5#8, 0xC6#8, 0x97#8, 0xB3#8, 0x06#8, 0x02#8, 0x00#8, 0x00#8, 0x00#8]

/-- P1's frame. -/
def p1Frame : Snapshot :=
  #v[0x07#8, 0x00#8, 0x00#8, 0x02#8, 0x02#8, 0x70#8, 0x07#8, 0x04#8, 0x00#8, 0xD5#8,
     0xC6#8, 0x97#8, 0xBB#8, 0x06#8, 0x00#8, 0x00#8, 0x42#8, 0x01#8, 0x00#8, 0x00#8]

/-- P1's Primary transfer. -/
def p1Primary : List Byte :=
  zeros 5 ++ [0x02#8, 0x02#8, 0x70#8, 0x07#8, 0x04#8, 0x00#8, 0xD5#8, 0xC6#8, 0x97#8, 0xBB#8,
    0x06#8, 0x00#8, 0x00#8, 0x42#8, 0x01#8, 0x00#8, 0x00#8]

/-- S4's Primary transfer. -/
def s4Primary : List Byte :=
  [0xA0#8, 0xA1#8, 0xA2#8, 0xA3#8, 0xA4#8, 0x10#8, 0x11#8, 0x12#8, 0x13#8, 0x14#8, 0x15#8, 0x16#8,
   0x17#8, 0x18#8, 0x19#8, 0x1A#8, 0x1B#8, 0x1C#8, 0x1D#8, 0x1E#8, 0x1F#8, 0x20#8]

/-- S5's Secondary transfer. -/
def s5Secondary : List Byte :=
  [0xB0#8, 0xB1#8, 0xB2#8, 0xB3#8, 0xB4#8, 0xC1#8, 0xC2#8, 0xC3#8]

/-- The frame after S5. -/
def s5Frame : List Byte :=
  [0xC1#8, 0xC2#8, 0xC3#8, 0x10#8, 0x11#8, 0x12#8, 0x13#8, 0x14#8, 0x15#8, 0x16#8, 0x17#8, 0x18#8,
   0x19#8, 0x1A#8, 0x1B#8, 0x1C#8, 0x1D#8, 0x1E#8, 0x1F#8, 0x20#8]

/-! ## The configuration -/

/-- Section 2: CFG_EX satisfies R40 to R45, R46 and the sanity condition of R45. -/
theorem test_exampleTables_wellFormed : ex.cfg.tables.WellFormed := Config.exampleTables_wellFormed
theorem test_exampleTables_consistent : Config.exampleTables.ConsistentWithS8 := by decide
theorem test_exampleTables_distinct : Config.exampleTables.DistinctBits := by decide

/-- One ill-formed table for each of R40 to R45. -/
theorem test_segOk_refuses_bit3 :
    ¬ Tables.SegOk { Config.exampleTables with seg := (0x08#8, 'x') :: Config.segExDigits } := by
  decide
theorem test_unitOk_refuses_missing_V :
    ¬ Tables.UnitOk { Config.exampleTables with unit := [(0x7007#16, .directive .omega)] } := by
  decide
theorem test_prefixOk_refuses_omega :
    ¬ Tables.PrefixOk
      { Config.exampleTables with prefixTable := [(0x0001#16, .directive .omega)] } := by
  decide
theorem test_annunOk_refuses_two_bits :
    ¬ Tables.AnnunOk
      { Config.exampleTables with
        annun := [⟨.REM, ⟨16, 0x02#8⟩⟩, ⟨.SRQ, ⟨2, 0x03#8⟩⟩] } := by
  decide
theorem test_dpOk_refuses_rem :
    ¬ Tables.DpOk
      { Config.exampleTables with dp := Vector.replicate 7 ⟨16, 0x02#8⟩ } := by
  decide
theorem test_barOk_refuses_empty_mask :
    ¬ Tables.BarOk
      { Config.exampleTables with bar := Vector.replicate 17 ⟨0, 0x00#8⟩ } := by
  decide

/-! ## Well-formed operations: one ill-formed term for each check -/

theorem test_wf_xferPri : (Instr.xferPri (zeros 21)).wellFormed = false := by decide
theorem test_wf_xferSec : (Instr.xferSec (zeros 9)).wellFormed = false := by decide
theorem test_wf_xferIgn_primary : (Instr.xferIgn 22 (zeros 22)).wellFormed = false := by decide
theorem test_wf_xferIgn_secondary : (Instr.xferIgn 8 (zeros 8)).wellFormed = false := by decide
theorem test_wf_xferIgn_count : (Instr.xferIgn 7 (zeros 6)).wellFormed = false := by decide
theorem test_wf_segdec : (Instr.segdec 0x08#8).wellFormed = false := by decide
theorem test_wf_bittest : (Instr.bittest s1Frame 16 0x44#8).wellFormed = false := by decide
theorem test_wf_signPos : (Instr.signPos 0x40#8).wellFormed = false := by decide
theorem test_wf_signNeg : (Instr.signNeg 0x44#8).wellFormed = false := by decide
theorem test_wf_signNone : (Instr.signNone 0x40#8).wellFormed = false := by decide
theorem test_wf_annunRem : (Instr.annunRem 0xFD#8).wellFormed = false := by decide
theorem test_wf_unitUnknown_V : (Instr.unitUnknown 0x0145#16).wellFormed = false := by decide
theorem test_wf_unitUnknown_omega : (Instr.unitUnknown 0x7007#16).wellFormed = false := by decide
theorem test_wf_segdecUnknown : (Instr.segdecUnknown 0xFF#8).wellFormed = false := by decide

/-! ## Decoding: one word of every row, from R90 to R101 and R105 -/

theorem test_decode_xferPri : decoded ⟨.xfer, 0x16, s4Primary⟩ = some (.xferPri s4Primary) := by
  decide
theorem test_decode_xferSec :
    decoded ⟨.xfer, 0x08, s5Secondary⟩ = some (.xferSec s5Secondary) := by decide
theorem test_decode_xferIgn : decoded ⟨.xfer, 0x17, zeros 23⟩ = some (.xferIgn 23 (zeros 23)) := by
  decide
theorem test_decode_xferBegin : decoded ⟨.xferBegin, 22, []⟩ = some (.xferBegin 22) := by decide
theorem test_decode_xferByte : decoded ⟨.xferByte, 0xAA, []⟩ = some (.xferByte 0xAA#8) := by decide
theorem test_decode_interpret : decoded ⟨.interpret, 0, []⟩ = some .interpret := by decide
theorem test_decode_reset : decoded ⟨.reset, 0, []⟩ = some .reset := by decide
theorem test_decode_frdySet : decoded ⟨.frdySet, 0, []⟩ = some .frdySet := by decide
theorem test_decode_frdyClr : decoded ⟨.frdyClr, 0, []⟩ = some .frdyClr := by decide
theorem test_decode_segdec : decoded ⟨.segdec, 0xF7, []⟩ = some (.segdec 0xF7#8) := by decide
theorem test_decode_glydecU : decoded ⟨.glydecU, 0x6300, []⟩ = some (.glydecU 0x6300#16) := by decide
theorem test_decode_glydecP : decoded ⟨.glydecP, 0x0602, []⟩ = some (.glydecP 0x0602#16) := by decide
theorem test_decode_bittest :
    decoded ⟨.bittest, 0, 0x13#8 :: 0x80#8 :: p1Frame.toList⟩ = some (.bittest p1Frame 19 0x80#8) := by
  decide
theorem test_decode_annun : decoded ⟨.annun, 0, p1Frame.toList⟩ = some (.annun p1Frame) := by decide
theorem test_decode_bar : decoded ⟨.bar, 0, p1Frame.toList⟩ = some (.bar p1Frame) := by decide
theorem test_decode_digits : decoded ⟨.digits, 0, p1Frame.toList⟩ = some (.digits p1Frame) := by
  decide
theorem test_decode_dpoints : decoded ⟨.dpoints, 0, p1Frame.toList⟩ = some (.dpoints p1Frame) := by
  decide
theorem test_decode_sign : decoded ⟨.sign, 0, p1Frame.toList⟩ = some (.sign p1Frame) := by decide
theorem test_decode_unit : decoded ⟨.unit, 0, p1Frame.toList⟩ = some (.unit p1Frame) := by decide
theorem test_decode_prefixGlyph :
    decoded ⟨.prefixGlyph, 0, p1Frame.toList⟩ = some (.prefixGlyph p1Frame) := by decide
theorem test_decode_signPos : decoded ⟨.frameSign, 0x04, []⟩ = some (.signPos 0x04#8) := by decide
theorem test_decode_signPos_both : decoded ⟨.frameSign, 0x46, []⟩ = some (.signPos 0x46#8) := by
  decide
theorem test_decode_signNeg : decoded ⟨.frameSign, 0xFB, []⟩ = some (.signNeg 0xFB#8) := by decide
theorem test_decode_signNone : decoded ⟨.frameSign, 0xBB, []⟩ = some (.signNone 0xBB#8) := by decide
theorem test_decode_annunRem : decoded ⟨.frameRem, 0x02, []⟩ = some (.annunRem 0x02#8) := by decide
theorem test_decode_unitV : decoded ⟨.glyphUnit, 0x0145, []⟩ = some .unitV := by decide
theorem test_decode_unitOmega : decoded ⟨.glyphUnit, 0x7007, []⟩ = some .unitOmega := by decide
theorem test_decode_unitUnknown :
    decoded ⟨.glyphUnit, 0x0770, []⟩ = some (.unitUnknown 0x0770#16) := by decide
theorem test_decode_prefixUnknown :
    decoded ⟨.glyphPrefix, 0x0145, []⟩ = some (.prefixUnknown 0x0145#16) := by decide
theorem test_decode_segdecUnknown :
    decoded ⟨.segKey, 0x87, []⟩ = some (.segdecUnknown 0x87#8) := by decide

/-- R129: a transfer with another number of bytes than declared has no step. -/
theorem test_reject_byteCount : rejection ⟨.xfer, 22, zeros 21⟩ = some (.byteCount 22 21) := by decide
/-- R140: no key has bit 3 set. -/
theorem test_reject_key : rejection ⟨.segdec, 0x0E, []⟩ = some (.reservedKeyBit 0x0E#8) := by decide
/-- R166: offset 20 does not exist. -/
theorem test_reject_offset :
    rejection ⟨.bittest, 0, 0x14#8 :: 0x01#8 :: p1Frame.toList⟩ =
      some (.badBitPosition 0x14#8 0x01#8) := by decide
/-- R105: bit 1 clear matches no row of the REM field. -/
theorem test_reject_rem : rejection ⟨.frameRem, 0xFD, []⟩ = some (.noRow .frameRem 0xFD) := by decide
theorem test_reject_operands : rejection ⟨.interpret, 1, []⟩ = some (.badOperands .interpret) := by
  decide

/-- Table words: each is the first operation of a step. -/
theorem test_tableWord_primary : decodeTableWord 8 0x16 = some (.xferPri (zeros 22)) := by decide
theorem test_tableWord_rem : decodeTableWord 8 0x02 = some (.annunRem 0x02#8) := by decide
theorem test_tableWord_omega : decodeTableWord 16 0x7007 = some .unitOmega := by decide
theorem test_withFetchWord_secondary :
    frameAfter (step (ex.withFetchWord 8 0x08)) =
      some (zeros 3 ++ List.replicate 17 0xFF#8, true, false) := by decide

/-! ## The Reassembler -/

/-- S4. -/
theorem test_xferPri :
    frameAfter (exec (.xferPri s4Primary) ex) =
      some (List.replicate 3 0xFF#8 ++ s4Primary.drop 5, true, false) := by decide
/-- T3: a payload equal to the sentinel still raises `frame_ready`. -/
theorem test_xferPri_sentinel :
    frameAfter (exec (.xferPri (List.replicate 22 0xFF#8)) ex) =
      some (List.replicate 20 0xFF#8, true, false) := by decide
/-- S5, after S4. -/
theorem test_xferSec :
    frameAfter (execAll [.xferPri s4Primary, .xferSec s5Secondary] ex) =
      some (s5Frame, true, false) := by decide
/-- S6, after S5. -/
theorem test_xferIgn :
    frameAfter (execAll [.xferPri s4Primary, .xferSec s5Secondary,
      .xferIgn 9 (zeros 5 ++ [0xD1#8, 0xD2#8, 0xD3#8, 0xD4#8])] ex) =
      some (s5Frame, true, false) := by decide
/-- T5: length 0. -/
theorem test_xferIgn_empty :
    frameAfter (exec (.xferIgn 0 []) ex) = some (List.replicate 20 0xFF#8, false, false) := by decide
/-- 3.3 step 1. -/
theorem test_xferBegin : rxAfter (exec (.xferBegin 8) ex) = some (8, 0, true, false) := by decide
/-- 3.5: length 0 is over at once. -/
theorem test_xferBegin_empty : rxAfter (exec (.xferBegin 0) ex) = some (0, 0, false, false) := by
  decide
/-- 3.3 step 7: the first payload byte, at offset 0. -/
theorem test_xferByte_first_payload :
    frameAfter (exec (.xferByte 0xAA#8) (receiving 8 5)) =
      some (0xAA#8 :: List.replicate 19 0xFF#8, false, false) := by decide
/-- 3.4: the last byte of a Primary, at offset 19. -/
theorem test_xferByte_last :
    frameAfter (exec (.xferByte 0x11#8) (receiving 22 21)) =
        some (List.replicate 19 0xFF#8 ++ [0x11#8], true, false) ∧
      rxAfter (exec (.xferByte 0x11#8) (receiving 22 21)) = some (22, 22, false, true) := by decide
/-- 3.5: the two refusals. -/
theorem test_illFormed_events :
    refusalOf (exec (.xferBegin 8) (receiving 8 1)) = some .transferInProgress ∧
      refusalOf (exec (.xferByte 0x00#8) ex) = some .noTransferInProgress := by decide

/-! ## The signaler, INTERPRET and RESET -/

theorem test_frdySet : frameAfter (exec .frdySet ex) =
    some (List.replicate 20 0xFF#8, true, false) := by decide
theorem test_frdyClr : frameAfter (exec .frdyClr { ex with frameReady := true }) =
    some (List.replicate 20 0xFF#8, false, false) := by decide

/-- P1's display. -/
def p1Display (d : DisplayState) : Bool :=
  d.digits.toList == [' ', ' ', '1', '2', '3', '4', '5'] && d.sign == .negative &&
  d.decimalPoints.toList == [false, false, false, true, false, false, false] &&
  d.unitGlyph == .directive .omega && d.prefixGlyph == .literal 'k' &&
  lit d.annunciators == [.REM, .MIN, .MAN_RANGE] &&
  d.bargraph.toList == [true, true, true] ++ List.replicate 14 false

/-- P1: one full update. -/
theorem test_interpret :
    ((nextOf (execAll [.reset, .xferSec (zeros 5 ++ [0x07#8, 0x00#8, 0x00#8]), .xferPri p1Primary,
      .interpret] ex)).bind State.ds).map p1Display = some true := by decide
/-- I1. -/
theorem test_interpret_not_enabled : nextOf (exec .interpret ex) = some ex := by decide
/-- 3.5: RESET inside a transfer. -/
theorem test_reset : rxAfter (exec .reset { receiving 8 1 with frameReady := true }) =
    some (0, 0, false, false) := by decide
/-- R220: the sentinel is the configuration's. -/
theorem test_reset_sentinel :
    frameAfter (exec .reset { ex with cfg := { exCfg with resetSentinel := 0x00#8 } }) =
      some (zeros 20, false, false) := by decide

/-! ## The decoders -/

/-- 4.3. -/
theorem test_segdec : resultAfter (exec (.segdec 0x60#8) ex) = some (.char '1') := by decide
theorem test_segdec_unknown : resultAfter (exec (.segdec 0x05#8) ex) = some (.char '?') := by decide
/-- 4.4. -/
theorem test_glydecU : resultAfter (exec (.glydecU 0x7007#16) ex) =
    some (.glyph (.directive .omega)) := by decide
theorem test_glydecU_swapped : resultAfter (exec (.glydecU 0x4501#16) ex) =
    some (.glyph .blank) := by decide
theorem test_glydecP : resultAfter (exec (.glydecP 0x0602#16) ex) =
    some (.glyph (.literal 'C')) := by decide
theorem test_glydecP_unit_code : resultAfter (exec (.glydecP 0x0145#16) ex) =
    some (.glyph .blank) := by decide
theorem test_unitV : resultAfter (exec .unitV ex) = some (.glyph (.literal 'V')) := by decide
theorem test_unitOmega : resultAfter (exec .unitOmega ex) = some (.glyph (.directive .omega)) := by
  decide
theorem test_unitUnknown : resultAfter (exec (.unitUnknown 0x0144#16) ex) =
    some (.glyph .blank) := by decide
theorem test_prefixUnknown : resultAfter (exec (.prefixUnknown 0xFFFF#16) ex) =
    some (.glyph .blank) := by decide
theorem test_segdecUnknown : resultAfter (exec (.segdecUnknown 0x87#8) ex) = some (.char '?') := by
  decide

/-! ## The bitfield extractor -/

/-- 4.1. -/
theorem test_bittest : resultAfter (exec (.bittest (snap [(16, 0x7F#8)]) 16 0x80#8) ex) =
    some (.flag false) := by decide
theorem test_bittest_set : resultAfter (exec (.bittest (snap [(19, 0x08#8)]) 19 0x08#8) ex) =
    some (.flag true) := by decide
/-- 4.2, second line. -/
theorem test_annun :
    (match resultAfter (exec (.annun (snap [(7, 0x04#8), (8, 0x80#8)])) ex) with
      | some (.annunciators l) => lit l
      | _ => []) = [.MIN, .AC] := by decide
/-- 4.2, fourth line: bits 5 to 7 of offset 18 name nothing. -/
theorem test_annun_unnamed_bits :
    (match resultAfter (exec (.annun (snap [(18, 0xFF#8)])) ex) with
      | some (.annunciators l) => lit l
      | _ => []) = [.HOLD, .PROBE, .ZAP, .SHIFT_ARROW, .S_MARKER] := by decide
/-- 4.5, fifth row. -/
theorem test_bar :
    resultAfter (exec (.bar (snap [(0, 0x80#8), (1, 0x01#8)])) ex) =
      some (.bargraph #v[false, false, false, false, false, false, false, true, true, false, false,
        false, false, false, false, false, false]) := by decide
/-- 4.6, row 7: unknown keys, both keys of '1', a bare bit 3. -/
theorem test_digits :
    resultAfter (exec (.digits (snap [(15, 0x05#8), (14, 0x01#8), (13, 0x60#8), (12, 0x68#8),
      (11, 0x87#8), (10, 0x08#8), (9, 0x10#8)])) ex) =
      some (.digits #v['?', '?', '1', '1', '?', ' ', '_']) := by decide
/-- 4.7, row 3. -/
theorem test_dpoints :
    resultAfter (exec (.dpoints (snap [(15, 0x0E#8), (14, 0xB3#8), (9, 0x0F#8)])) ex) =
      some (.decimalPoints #v[true, false, false, false, false, false, true]) := by decide
/-- 4.8: both bits set, and bit 6 alone. -/
theorem test_sign_both : resultAfter (exec (.sign (snap [(16, 0x44#8)])) ex) =
    some (.sign .positive) := by decide
theorem test_sign_negative : resultAfter (exec (.sign (snap [(16, 0xFB#8)])) ex) =
    some (.sign .negative) := by decide
/-- 4.9, row 8: the codes of the two glyphs are apart. -/
theorem test_unit : resultAfter (exec (.unit (snap [(3, 0x0E#8), (6, 0xE0#8)])) ex) =
    some (.glyph (.directive .fallingEdge)) := by decide
theorem test_prefixGlyph : resultAfter (exec (.prefixGlyph (snap [(3, 0x0E#8), (6, 0xE0#8)])) ex) =
    some (.glyph (.directive .risingEdge)) := by decide
/-- 4.8, as code points. -/
theorem test_signPos : resultAfter (exec (.signPos 0x46#8) ex) = some (.sign .positive) := by decide
theorem test_signNeg : resultAfter (exec (.signNeg 0xFB#8) ex) = some (.sign .negative) := by decide
theorem test_signNone : resultAfter (exec (.signNone 0xBB#8) ex) = some (.sign .noSign) := by decide
/-- 4.2: F[16] = 46 gives REM. -/
theorem test_annunRem : resultAfter (exec (.annunRem 0x46#8) ex) =
    some (.annunciators [(.REM, true)]) := by decide

/-! ## Witnesses: the hypotheses of each statement are met -/

/-- A state with an unread transfer. -/
def ready : State := { ex with frameReady := true }

/-- A state with one stimulus presented. -/
def presented (st : Stimulus) (s : State) : State := { s with inputs := [st] }

theorem witness_ResetReturnsToTheInitialState : ready.cfg.resetSentinel = 0xFF#8 := by decide

theorem witness_PrimaryTransferStoresItsPayload :
    s4Primary.length = 22 ∧ (ex.rxActive = false ∧ ex.cfg.policy = .polled) ∧
      3 ≤ (3 : Offset).val ∧ 3 ≤ (19 : Offset).val ∧ (2 : Offset).val < 3 := by decide

theorem witness_SecondaryTransferStoresItsPayload :
    s5Secondary.length = 8 ∧ (ex.rxActive = false ∧ ex.cfg.policy = .polled) ∧
      (0 : Offset).val < 3 ∧ (2 : Offset).val < 3 ∧ 3 ≤ (3 : Offset).val := by decide

theorem witness_IgnoredTransferChangesNothing :
    ex.rxActive = false ∧ (7 ≠ 22 ∧ 7 ≠ 8 ∧ (zeros 7).length = 7) ∧
      (23 ≠ 22 ∧ 23 ≠ 8 ∧ (zeros 23).length = 23) ∧ (0 ≠ 22 ∧ 0 ≠ 8 ∧ (zeros 0).length = 0) := by
  decide

theorem witness_WholeTransfersKeepTheSequencingRegisters :
    isTransfer (.xferPri s4Primary) = true ∧ isTransfer (.xferSec s5Secondary) = true ∧
      isTransfer (.xferIgn 0 []) = true ∧ { ex with rxLen := 8, rxIdx := 8 }.rxActive = false := by
  decide

theorem witness_BeginLatchesTheLength : ex.rxActive = false := by decide

/-- The first preamble byte, the first payload byte, the last byte of either shape. -/
theorem witness_ByteOfATransferIsStoredOrDropped :
    ((receiving 8 0).rxActive = true ∧ ¬((receiving 8 0).rxIdx + 1 = (receiving 8 0).rxLen)) ∧
    ((receiving 22 5).rxActive = true ∧ 5 ≤ (receiving 22 5).rxIdx ∧
      (3 : Offset).val = (receiving 22 5).rxIdx - 2) ∧
    ((receiving 8 7).rxActive = true ∧ (receiving 8 7).rxIdx + 1 = (receiving 8 7).rxLen ∧
      (receiving 8 7).cfg.policy = .polled ∧ (2 : Offset).val = (receiving 8 7).rxIdx - 5) ∧
    ((receiving 22 21).rxActive = true ∧ (receiving 22 21).rxIdx + 1 = (receiving 22 21).rxLen ∧
      (receiving 22 21).cfg.policy = .polled ∧ (19 : Offset).val = (receiving 22 21).rxIdx - 2) := by
  decide

theorem witness_IllFormedEventsAreRefused :
    (receiving 8 1).rxActive = true ∧ ex.rxActive = false ∧ (zeros 21).length ≠ 22 ∧
      isTransfer (.xferPri s4Primary) = true ∧ isTransfer (.xferIgn 0 []) = true ∧
      (zeros 23).length ≠ 22 ∧ (zeros 7).length ≠ 8 ∧ (9 ≠ 22 ∧ 9 ≠ 8 ∧ (zeros 8).length ≠ 9) := by
  decide

theorem witness_DeclaredLengthSelectsTheOperation :
    (zeros 22).length = 22 ∧ (zeros 8).length = 8 ∧
      ((zeros 9).length ≠ 22 ∧ (zeros 9).length ≠ 8) := by decide

theorem witness_PreambleBytesHaveNoEffect :
    s5Secondary ≠ zeros 5 ++ s5Secondary.drop 5 ∧
      s5Secondary.length = (zeros 5 ++ s5Secondary.drop 5).length ∧
      s5Secondary.drop 5 = (zeros 5 ++ s5Secondary.drop 5).drop 5 := by decide

theorem witness_ByteSerialRefinesWholeTransfer : ex.rxActive = false := by decide

/-- With a Primary and a Secondary, and with neither. -/
theorem witness_FrameHoldsTheLatestPayloads :
    ex.rxActive = false ∧
      (∀ i ∈ [.xferPri s4Primary, .xferSec s5Secondary, .xferIgn 0 []], isTransfer i = true) ∧
      lastPrimary [.xferPri s4Primary, .xferSec s5Secondary] = some s4Primary ∧
      lastSecondary [.xferPri s4Primary, .xferSec s5Secondary] = some s5Secondary ∧
      lastPrimary [.xferIgn 0 []] = none ∧ lastSecondary [.xferIgn 0 []] = none := by decide

/-- A Secondary, and the last byte of a Primary. -/
theorem witness_ImmediateTransfersInterpretAtOnce :
    (∃ t, exImmediate.cfg.policy = .immediate ∧
      completesRecognised (.xferSec s5Secondary) exImmediate = true ∧
      exec (.xferSec s5Secondary) exImmediate = .next t) ∧
    ∃ t, ((receiving 22 21).withPolicy .immediate).cfg.policy = .immediate ∧
      completesRecognised (.xferByte 0x11#8) ((receiving 22 21).withPolicy .immediate) = true ∧
      exec (.xferByte 0x11#8) ((receiving 22 21).withPolicy .immediate) = .next t :=
  ⟨⟨_, rfl, rfl, rfl⟩, ⟨_, rfl, rfl, rfl⟩⟩

theorem witness_FrameReadySaysATransferCompleted :
    ex.rxActive = false ∧ ex.frameReady = false ∧ ex.cfg.policy = .polled ∧
      (∀ i ∈ [.xferIgn 0 [], .xferSec s5Secondary], isTransfer i = true) := by decide

theorem witness_OnlyInterpretOrResetLowersFrameReady :
    ∃ t, ready.cfg.policy = .polled ∧ step (presented (encode .interpret) ready) = .next t ∧
      (presented (encode .interpret) ready).frameReady = true ∧ t.frameReady = false :=
  ⟨_, rfl, rfl, rfl, rfl⟩

/-- A key of the table and a key that is none. -/
theorem witness_SegmentDecoderFollowsItsTable :
    ex.cfg.tables.WellFormed ∧ (0x77#8 &&& 0x08#8 = 0#8 ∧ (0x77#8, '0') ∈ ex.cfg.tables.seg) ∧
      (0x05#8 &&& 0x08#8 = 0#8 ∧ 0x05#8 ∉ ex.cfg.tables.seg.map Prod.fst) :=
  ⟨test_exampleTables_wellFormed, by decide, by decide⟩

theorem witness_UnitDecoderFollowsItsTable :
    ex.cfg.tables.WellFormed ∧ (0x0145#16, .literal 'V') ∈ ex.cfg.tables.unit ∧
      0x0000#16 ∉ ex.cfg.tables.unit.map Prod.fst :=
  ⟨test_exampleTables_wellFormed, by decide, by decide⟩

theorem witness_PrefixDecoderFollowsItsTable :
    ex.cfg.tables.WellFormed ∧ (0x0202#16, .literal 'k') ∈ ex.cfg.tables.prefixTable ∧
      0x0145#16 ∉ ex.cfg.tables.prefixTable.map Prod.fst :=
  ⟨test_exampleTables_wellFormed, by decide, by decide⟩

theorem witness_CodePointRowsGiveTheirResults :
    0x4501#16 ∉ ex.cfg.tables.unit.map Prod.fst ∧ 0xFFFF#16 ∉ ex.cfg.tables.prefixTable.map Prod.fst ∧
      0x87#8 &&& 0x08#8 = 0#8 ∧ 0x87#8 ∉ ex.cfg.tables.seg.map Prod.fst := by decide

theorem witness_BitTestReadsTheNamedBit : 0 < 8 ∧ 7 < 8 := by decide

theorem witness_AnnunciatorsAreTheNamedBits :
    ex.cfg.tables.WellFormed ∧
      (ex.cfg.tables.annun[0]? = some ⟨.REM, ⟨16, 0x02#8⟩⟩ ∧ 1 < 8 ∧ 0x02#8 = 1#8 <<< 1) ∧
      ex.cfg.tables.annun[41]? = some ⟨.S_MARKER, ⟨18, 0x10#8⟩⟩ ∧ 4 < 8 ∧ 0x10#8 = 1#8 <<< 4 :=
  ⟨test_exampleTables_wellFormed, by decide, by decide⟩

theorem witness_BargraphIsTheNamedBits :
    (0 < 8 ∧ ex.cfg.tables.bar[(0 : Fin 17)].mask = 1#8 <<< 0) ∧
      (7 < 8 ∧ ex.cfg.tables.bar[(15 : Fin 17)].mask = 1#8 <<< 7) ∧
      (0 < 8 ∧ ex.cfg.tables.bar[(16 : Fin 17)].mask = 1#8 <<< 0) := by decide

theorem witness_DigitsDecodeTheMaskedBytes :
    ex.cfg.tables.WellFormed ∧ (15 : Offset).val = 15 - (0 : Fin 7).val ∧
      (9 : Offset).val = 15 - (6 : Fin 7).val ∧
      (p1Frame[12] &&& 0xF7#8, '2') ∈ ex.cfg.tables.seg ∧
      0x0D#8 &&& 0xF7#8 ∉ ex.cfg.tables.seg.map Prod.fst :=
  ⟨test_exampleTables_wellFormed, by decide, by decide, by decide, by decide⟩

theorem witness_DecimalPointsAreTheNamedBits :
    3 < 8 ∧ ex.cfg.tables.dp[(0 : Fin 7)].mask = 1#8 <<< 3 ∧
      ex.cfg.tables.dp[(6 : Fin 7)].mask = 1#8 <<< 3 := by decide

/-- The three rows of R171, and both bits at once. -/
theorem witness_SignTestsPositiveFirst :
    ((snap [(16, 0x44#8)])[16]).getLsbD 2 = true ∧
      (((snap [(16, 0xFB#8)])[16]).getLsbD 2 = false ∧ ((snap [(16, 0xFB#8)])[16]).getLsbD 6 = true) ∧
      (((snap [(16, 0xBB#8)])[16]).getLsbD 2 = false ∧
        ((snap [(16, 0xBB#8)])[16]).getLsbD 6 = false) := by decide

theorem witness_FrameBitRowsGiveTheirResults :
    (0x46#8).getLsbD 2 = true ∧ ((0x40#8).getLsbD 2 = false ∧ (0x40#8).getLsbD 6 = true) ∧
      ((0x02#8).getLsbD 2 = false ∧ (0x02#8).getLsbD 6 = false) ∧
      ¬((0x44#8).getLsbD 2 = false ∧ (0x44#8).getLsbD 6 = true) ∧
      ¬((0x40#8).getLsbD 2 = false ∧ (0x40#8).getLsbD 6 = false) ∧
      (0x02#8).getLsbD 1 = true ∧ (0xFD#8).getLsbD 1 = false := by decide

theorem witness_UnitGlyphFromBytesFiveAndSix :
    ex.cfg.tables.WellFormed ∧
      (0x7007#16).toNat = p1Frame[5].toNat * 256 + p1Frame[6].toNat :=
  ⟨test_exampleTables_wellFormed, by decide⟩

theorem witness_PrefixGlyphFromBytesThreeAndFour :
    ex.cfg.tables.WellFormed ∧
      (0x0202#16).toNat = p1Frame[3].toNat * 256 + p1Frame[4].toNat :=
  ⟨test_exampleTables_wellFormed, by decide⟩

theorem witness_InterpretRecomputesTheDisplay :
    ready.frameReady = true ∧ ready.rxActive = false := by decide

/-- Nothing ready, and a transfer in progress with an unread one. -/
theorem witness_InterpretNotEnabledChangesNothing :
    ¬(ex.frameReady = true ∧ ex.rxActive = false) ∧
      ¬({ receiving 22 12 with frameReady := true }.frameReady = true ∧
        (receiving 22 12).rxActive = false) := by decide

theorem witness_InterpretAgreesWithItsSubOperations :
    ∃ t, ready.frameReady = true ∧ ready.rxActive = false ∧ exec .interpret ready = .next t :=
  ⟨_, rfl, rfl, rfl⟩

/-- P1's frame, and the same with every bit the clauses do not name turned over at offsets 3 to 16. -/
theorem witness_EachFieldDependsOnItsOwnBits :
    ex.cfg.tables.WellFormed ∧ (15 : Offset).val = 15 - (0 : Fin 7).val ∧
      (p1Frame[12] &&& 0xF7#8 = (snap [(12, 0xB3#8)])[12] &&& 0xF7#8 ∧
      p1Frame[16].getLsbD 2 = (snap [(16, 0x40#8)])[16].getLsbD 2 ∧
      p1Frame[16].getLsbD 6 = (snap [(16, 0x40#8)])[16].getLsbD 6 ∧
      p1Frame[16].getLsbD 1 = (snap [(16, 0x02#8)])[16].getLsbD 1 ∧
      p1Frame[5] = (snap [(5, 0x70#8)])[5] ∧ p1Frame[3] = (snap [(3, 0x02#8)])[3] ∧
      p1Frame[7] &&& 0x04#8 = (snap [(7, 0xFF#8)])[7] &&& 0x04#8 ∧
      p1Frame[12] &&& 0x08#8 = (snap [(12, 0x08#8)])[12] &&& 0x08#8 ∧
      p1Frame[0] &&& 0x01#8 = (snap [(0, 0x01#8)])[0] &&& 0x01#8) :=
  ⟨test_exampleTables_wellFormed, by decide, by decide⟩

theorem witness_SecondaryLeavesTheReadingAlone :
    ∃ t, ex.cfg.tables.WellFormed ∧ exec (.xferSec s5Secondary) ex = .next t :=
  ⟨_, test_exampleTables_wellFormed, rfl⟩

/-- S1 with its digits, S2's and S3's codes. -/
theorem witness_RequiredEndToEndReadings :
    (ex.cfg.tables.WellFormed ∧ ex.cfg.tables.ConsistentWithS8) ∧
      (s1Frame[16] = 0x02#8 ∧
        (s1Frame[15], '1') ∈ ex.cfg.tables.seg ∧ (s1Frame[14], '2') ∈ ex.cfg.tables.seg ∧
        (s1Frame[13], '3') ∈ ex.cfg.tables.seg ∧ (s1Frame[12], '4') ∈ ex.cfg.tables.seg ∧
        (s1Frame[11], '5') ∈ ex.cfg.tables.seg ∧ (s1Frame[10], '6') ∈ ex.cfg.tables.seg ∧
        (s1Frame[9], '7') ∈ ex.cfg.tables.seg) ∧
      ((snap [(5, 0x01#8), (6, 0x45#8)])[5] = 0x01#8 ∧
        (snap [(5, 0x01#8), (6, 0x45#8)])[6] = 0x45#8) ∧
      p1Frame[5] = 0x70#8 ∧ p1Frame[6] = 0x07#8 :=
  ⟨⟨test_exampleTables_wellFormed, test_exampleTables_consistent⟩, by decide, by decide, by decide⟩

theorem witness_SentinelBytesAreInterpretedAsData :
    ex.cfg.tables.WellFormed ∧ (∀ o : Offset, (snapshot ex.frame)[o] = 0xFF#8) ∧
      (ex.cfg.tables.annun ≠ [] ∧ (15 : Offset).val = 15 - (0 : Fin 7).val ∧
        (9 : Offset).val = 15 - (6 : Fin 7).val) :=
  ⟨test_exampleTables_wellFormed, by decide, by decide⟩

theorem witness_HalfStaleSnapshotsHappen :
    ex.rxActive = false ∧ ex.cfg.policy = .polled ∧ s5Secondary.length = 8 ∧
      s4Primary.length = 22 ∧ p1Primary.length = 22 := by decide

theorem witness_ReinterpretingAnUnchangedFrameRepeats :
    ex.rxActive = false ∧ ex.cfg.policy = .polled ∧ s5Secondary.length = 8 := by decide

/-- A write by each of the four operations that may. -/
theorem witness_OnlyTransfersAndResetWriteTheFrame :
    (∃ t, exec (.xferPri s4Primary) ex = .next t ∧ t.rf 3 ≠ ex.rf 3) ∧
      (∃ t, exec (.xferSec s5Secondary) ex = .next t ∧ t.rf 0 ≠ ex.rf 0) ∧
      (∃ t, exec (.xferByte 0x11#8) (receiving 22 21) = .next t ∧ t.rf 19 ≠ ex.rf 19) ∧
      ∃ t, exec .reset { ex with frame := [(4, 0x00#8)] } = .next t ∧ t.rf 4 ≠ 0x00#8 :=
  ⟨⟨_, rfl, by decide⟩, ⟨_, rfl, by decide⟩, ⟨_, rfl, by decide⟩, ⟨_, rfl, by decide⟩⟩

/-- The empty list and a frame with a cell, at the two ends of the frame. -/
theorem witness_FrameWritesAreIdempotentAndUnordered :
    Memory.wf [] ∧ Memory.wf [(0, 0x01#8), (19, 0x02#8)] ∧ (0 : Offset) ≠ 19 := by decide

theorem witness_DisplayIsAlwaysOneWholeSnapshot :
    ∃ t, exec .interpret ready = .next t ∧ t.ds ≠ ready.ds :=
  ⟨_, rfl, nofun⟩

theorem witness_OnlyInterpretOrResetWritesTheDisplay :
    ∃ t, ready.cfg.policy = .polled ∧ exec .interpret ready = .next t ∧
      (t.ds ≠ ready.ds ∨ t.dsValid ≠ ready.dsValid) :=
  ⟨_, rfl, rfl, .inl nofun⟩

theorem witness_NoOperationChangesTheConfiguration : ∃ t, exec .reset ready = .next t :=
  ⟨_, rfl⟩

/-- RESET and XFER_BEGIN with `rx_idx` away from 0, the last XFER_BYTE, and another operation. -/
theorem witness_ReceiveIndexIsClearedOrAdvanced :
    (∃ t, exec .reset (receiving 8 7) = .next t) ∧
      (∃ t, exec (.xferBegin 8) { ex with rxIdx := 8 } = .next t) ∧
      (∃ t, exec (.xferByte 0x00#8) (receiving 8 7) = .next t) ∧
      ∃ t, exec .interpret (receiving 8 7) = .next t ∧ Instr.interpret ≠ .reset ∧
        (∀ n, Instr.interpret ≠ .xferBegin n) ∧ ∀ b, Instr.interpret ≠ .xferByte b :=
  ⟨⟨_, rfl⟩, ⟨_, rfl⟩, ⟨_, rfl⟩, _, rfl, nofun, nofun, nofun⟩

/-- Well-formed operations that complete (INTERPRET with a false guard among them), and the two
exceptions: a start inside a transfer, and a byte outside one. -/
theorem witness_WellFormedOperationsAlwaysComplete :
    ((Instr.xferPri s4Primary).wellFormed = true ∧ (nextOf (exec (.xferPri s4Primary) ex)).isSome) ∧
      (Instr.interpret.wellFormed = true ∧ (nextOf (exec .interpret ex)).isSome) ∧
      ((Instr.xferSec s5Secondary).wellFormed = true ∧ (receiving 8 1).rxActive = true ∧
        isTransfer (.xferSec s5Secondary) = true ∧
        refusalOf (exec (.xferSec s5Secondary) (receiving 8 1)) = some .transferInProgress) ∧
      ((Instr.xferBegin 8).wellFormed = true ∧
        refusalOf (exec (.xferBegin 8) (receiving 8 1)) = some .transferInProgress) ∧
      ((Instr.xferByte 0x00#8).wellFormed = true ∧ ex.rxActive = false ∧
        refusalOf (exec (.xferByte 0x00#8) ex) = some .noTransferInProgress) := by decide

theorem witness_ImmediateRunsArePolledRuns :
    ∃ t, exImmediate.cfg.policy = .immediate ∧
      exec (.xferSec s5Secondary) exImmediate = .next t ∧
      completesRecognised (.xferSec s5Secondary) exImmediate = true :=
  ⟨_, rfl, rfl, rfl⟩

theorem ready_inv : ready.Inv :=
  ⟨by decide, test_exampleTables_wellFormed, nofun, rfl, nofun, nofun⟩

theorem witness_EveryStepKeepsTheInvariant :
    ∃ t, (presented (encode .interpret) ready).Inv ∧
      step (presented (encode .interpret) ready) = .next t :=
  ⟨_, ready_inv, rfl⟩

theorem witness_SettledDisplayIsCurrentOnEverySchedule :
    ∃ t, (presented (encode .interpret) ready).Inv ∧
      Host.Core.run Sys2Proof.core 2 (presented (encode .interpret) ready) = .next t ∧
      State.Settled t ∧ State.dsValid t = true :=
  ⟨_, ready_inv, rfl, ⟨rfl, rfl⟩, rfl⟩

/-- Nothing presented, an operation, and a stimulus that selects none. -/
theorem witness_StepRunsTheDecodedOperation :
    ex.inputs = [] ∧
      ((presented (encode .interpret) ready).inputs = encode .interpret :: [] ∧
        decoded (encode .interpret) = some .interpret ∧ Instr.interpret ≠ .frdySet ∧
        Instr.interpret ≠ .frdyClr) ∧
      rejection ⟨.xfer, 22, zeros 21⟩ = some (.byteCount 22 21) := by decide

end Sys2Proof.Tests
end

section
/-!
PROOFS. The whole transfers of the Reassembler (40_reassembler.md, R121 and R122): what a recognised
transfer stores and what it leaves, once for both shapes, and the two statements from it.
-/

namespace Sys2Proof.Proofs.WholeTransfers

open Sys2Proof.Machine

variable {s : State} {bytes : List Byte}

theorem exec_xferPri (hq : s.rxActive = false) (hlen : bytes.length = 22) :
    exec (.xferPri bytes) s = .next (storePayload 3 bytes s) :=
  wholeTransfer_next.2 ⟨hq, hlen, rfl⟩

theorem exec_xferSec (hq : s.rxActive = false) (hlen : bytes.length = 8) :
    exec (.xferSec bytes) s = .next (storePayload 0 bytes s) :=
  wholeTransfer_next.2 ⟨hq, hlen, rfl⟩

/-- Payload byte `i` stands at `base + (i - 5)`: the five preamble bytes are not stored (R90). -/
theorem storePayload_rf_of_received {base i : Nat} {o : Offset} (h5 : 5 ≤ i)
    (hi : i < bytes.length) (ho : o.val + 5 = base + i) :
    bytes[i]? = some ((storePayload base bytes s).rf o) := by
  have hin : base ≤ o.val ∧ o.val < base + (bytes.length - 5) := by omega
  have hindex : o.val - base + 5 = i := by omega
  rw [storePayload_rf, if_pos hin, hindex, List.getD_eq_getElem?_getD,
    List.getElem?_eq_getElem hi, Option.getD_some]

theorem storePayload_rf_of_not_received {base : Nat} {o : Offset}
    (ho : o.val < base ∨ base + (bytes.length - 5) ≤ o.val) :
    (storePayload base bytes s).rf o = s.rf o := by
  rw [storePayload_rf, if_neg (by omega)]

/-- As a step of its own (the Polled policy) a recognised transfer stores and raises `frame_ready`. -/
theorem storePayload_polled {base : Nat} (hp : s.cfg.policy = .polled) :
    storePayload base bytes s =
      (s.setFrame (storeFrom s.frame base (bytes.drop 5))).setFrameReady true :=
  completeTransfer_polled (s := s.setFrame _) hp

/-- What R121 and R122 say of the registers beside RawFrame, the same for both shapes: only under the
Immediate policy does the fused INTERPRET (R179) write the display. -/
theorem storePayload_registers (base : Nat) (bytes : List Byte) (s : State) :
    let t := storePayload base bytes s
    (s.cfg.policy = .polled → t.frameReady = true ∧ t.ds = s.ds ∧ t.dsValid = s.dsValid) ∧
      t.rxActive = s.rxActive ∧ t.cfg = s.cfg ∧ t.inputs = s.inputs ∧ t.result = s.result := by
  refine ⟨fun hp => ?_, ?_⟩
  · simp [storePayload_polled hp]
  · simp [storePayload]

/-- Settles O4: offset `o` of 3 to 19 is where payload byte `o + 2` goes. -/
theorem primaryTransferStoresItsPayload : Obligations.PrimaryTransferStoresItsPayload := by
  intro s bytes hq hlen
  refine ⟨storePayload 3 bytes s, exec_xferPri hq hlen, fun o ho => ?_, fun o ho => ?_,
    storePayload_registers 3 bytes s⟩
  · exact storePayload_rf_of_received (by omega) (by omega) (by omega)
  · exact storePayload_rf_of_not_received (.inl ho)

/-- Settles O5: offset `o` of 0 to 2 is where payload byte `o + 5` goes. -/
theorem secondaryTransferStoresItsPayload : Obligations.SecondaryTransferStoresItsPayload := by
  intro s bytes hq hlen
  refine ⟨storePayload 0 bytes s, exec_xferSec hq hlen, fun o ho => ?_, fun o ho => ?_,
    storePayload_registers 0 bytes s⟩
  · exact storePayload_rf_of_received (by omega) (by omega) (by omega)
  · exact storePayload_rf_of_not_received (.inr (by omega))

end Sys2Proof.Proofs.WholeTransfers
end

section
/-!
PROOFS. The Segment Decoder (41_segment_decoder.md, R141): the character of a segment key, in terms of
the table's entries, and the statement about SEGDEC from it.
-/

namespace Sys2Proof.Proofs.SegmentDecoder

open Sys2Proof.Machine

variable {t : Tables} {key : Byte}

/-- On a segment key the masking of R140's extension does nothing. -/
theorem segmentChar_of_clear (hkey : key &&& 0x08#8 = 0#8) :
    segmentChar t key = lookup t.seg key '?' := by
  rw [segmentChar, segmentKey_of_clear key hkey]

/-- A key of SEG_TABLE has one entry only, as R40 makes the keys distinct. -/
theorem segmentChar_of_mem {d : Char} (hseg : t.SegOk) (hkey : key &&& 0x08#8 = 0#8)
    (hmem : (key, d) ∈ t.seg) : segmentChar t key = d := by
  obtain ⟨_, hnodup, _, _⟩ := hseg
  rw [segmentChar_of_clear hkey, lookup_of_mem hnodup hmem]

/-- The fallback of R141, in any table: an unknown key is no error. -/
theorem segmentChar_of_not_mem (hkey : key &&& 0x08#8 = 0#8) (hnot : ∀ d, (key, d) ∉ t.seg) :
    segmentChar t key = '?' := by
  rw [segmentChar_of_clear hkey, lookup_of_not_mem hnot]

/-- Settles O19: SEGDEC answers `segmentChar` of the key and writes nothing else. -/
theorem segmentDecoderFollowsItsTable : Obligations.SegmentDecoderFollowsItsTable := by
  intro s key hwf hkey
  obtain ⟨hseg, _⟩ := hwf
  refine ⟨segmentChar s.cfg.tables key, rfl, fun d hmem => ?_, fun hnot => ?_⟩
  · exact segmentChar_of_mem hseg hkey hmem
  · exact segmentChar_of_not_mem hkey hnot

end Sys2Proof.Proofs.SegmentDecoder
end

section
/-!
PROOFS. The two Glyph Decoders (42_glyph_decoder.md, R151 and R152): the result of a code, in terms of
the entries of the unit and of the prefix table, and the statements about GLYDEC.U and GLYDEC.P from it.
-/

namespace Sys2Proof.Proofs.GlyphDecoders

open Sys2Proof.Machine

variable {t : Tables} {code : Code} {g : GlyphResult}

/-- R41 and R42 close the values of a table; a lookup adds only the default to them. -/
theorem lookup_default_or_closed {κ υ : Type} [DecidableEq κ] {l : List (κ × υ)} {values : List υ}
    (hclosed : ∀ e ∈ l, e.2 ∈ values) (k : κ) (d : υ) :
    lookup l k d = d ∨ lookup l k d ∈ values := by
  rcases lookup_mem_or_default l k d with hentry | hdefault
  · exact .inr (hclosed _ hentry)
  · exact .inl hdefault

/-- A code of UNIT_TABLE has one entry only, as R41 makes the codes distinct. -/
theorem unitResult_of_mem (hunit : t.UnitOk) (hmem : (code, g) ∈ t.unit) :
    unitResult t code = g := by
  obtain ⟨hnodup, _⟩ := hunit
  exact lookup_of_mem hnodup hmem

/-- An unknown unit code is no error, in any table. -/
theorem unitResult_of_not_mem (hnot : ∀ g, (code, g) ∉ t.unit) : unitResult t code = .blank :=
  lookup_of_not_mem hnot

/-- The first code the source fixes: R41 has it in every unit table. -/
theorem unitResult_volt (hunit : t.UnitOk) : unitResult t 0x0145#16 = .literal 'V' := by
  have ⟨_, hvolt, _⟩ := hunit
  exact unitResult_of_mem hunit hvolt

/-- The second code the source fixes: R41 has it in every unit table. -/
theorem unitResult_omega (hunit : t.UnitOk) : unitResult t 0x7007#16 = .directive .omega := by
  have ⟨_, _, homega, _⟩ := hunit
  exact unitResult_of_mem hunit homega

theorem unitResult_blank_or_closed (hunit : t.UnitOk) (code : Code) :
    unitResult t code = .blank ∨ unitResult t code ∈ Config.unitResults := by
  obtain ⟨_, _, _, hclosed⟩ := hunit
  exact lookup_default_or_closed hclosed code .blank

/-- A code of PREFIX_TABLE has one entry only, as R42 makes the codes distinct. -/
theorem prefixResult_of_mem (hprefix : t.PrefixOk) (hmem : (code, g) ∈ t.prefixTable) :
    prefixResult t code = g := by
  obtain ⟨hnodup, _⟩ := hprefix
  exact lookup_of_mem hnodup hmem

/-- An unknown prefix code is no error, in any table. -/
theorem prefixResult_of_not_mem (hnot : ∀ g, (code, g) ∉ t.prefixTable) :
    prefixResult t code = .blank :=
  lookup_of_not_mem hnot

theorem prefixResult_blank_or_closed (hprefix : t.PrefixOk) (code : Code) :
    prefixResult t code = .blank ∨ prefixResult t code ∈ Config.prefixResults := by
  obtain ⟨_, hclosed⟩ := hprefix
  exact lookup_default_or_closed hclosed code .blank

/-- Settles O20: GLYDEC.U answers `unitResult` of the code and writes nothing else. -/
theorem unitDecoderFollowsItsTable : Obligations.UnitDecoderFollowsItsTable := by
  intro s code hwf
  obtain ⟨_, hunit, _⟩ := hwf
  refine ⟨unitResult s.cfg.tables code, rfl, fun h hmem => ?known, fun hnot => ?unknown,
    fun hcode => ?volt, fun hcode => ?omega, unitResult_blank_or_closed hunit code⟩
  case known => exact unitResult_of_mem hunit hmem
  case unknown => exact unitResult_of_not_mem hnot
  case volt => rw [hcode, unitResult_volt hunit]
  case omega => rw [hcode, unitResult_omega hunit]

/-- Settles O21: GLYDEC.P answers `prefixResult` of the code and writes nothing else. -/
theorem prefixDecoderFollowsItsTable : Obligations.PrefixDecoderFollowsItsTable := by
  intro s code hwf
  obtain ⟨_, _, hprefix, _⟩ := hwf
  refine ⟨prefixResult s.cfg.tables code, rfl, fun h hmem => ?known, fun hnot => ?unknown,
    prefixResult_blank_or_closed hprefix code⟩
  case known => exact prefixResult_of_mem hprefix hmem
  case unknown => exact prefixResult_of_not_mem hnot

end Sys2Proof.Proofs.GlyphDecoders
end

section
/-!
PROOFS. The single-bit fields of a snapshot (43_interpreter_bitfields.md, R166 to R168, R170 and R171):
what a bit test, the annunciators and the sign are in terms of bit numbers, and the statements about
BITTEST, ANNUN, BAR, DPOINTS and SIGN from it.
-/

namespace Sys2Proof.Proofs.BitFields

open Sys2Proof.Machine

variable {t : Tables} {f : Snapshot}

/-- Entry `k` of ANNUN is made of the table's triple `k` alone (R167). -/
theorem annunOf_getElem? {k : Nat} {e : AnnunEntry} (he : t.annun[k]? = some e) :
    (annunOf t f)[k]? = some (e.name, bitTest f e.pos.offset e.pos.mask) := by
  rw [annunOf, List.getElem?_map, he, Option.map_some]

/-- REM's flag is bit 1 of offset 16 and no other: R43 has the triple `(REM, 16, 0x02)` in every table,
and no second triple of that name. -/
theorem rem_mem_annunOf_iff (hannun : t.AnnunOk) {b : Bool} :
    (AnnunName.REM, b) ∈ annunOf t f ↔ b = f[16].getLsbD 1 := by
  obtain ⟨hnodup, _, hrem⟩ := hannun
  have hbit : bitTest f 16 0x02#8 = f[16].getLsbD 1 := bitTest_singleMask f 16 (by decide) rfl
  rw [← hbit]
  constructor
  · intro hmem
    obtain ⟨e, he, heq⟩ := List.mem_map.1 hmem
    obtain ⟨hname, hflag⟩ := Prod.mk.inj heq
    rw [← hflag, eq_of_nodup_map hnodup he hrem hname]
  · rintro rfl
    exact List.mem_map.2 ⟨_, hrem, rfl⟩

/-- The sign of a snapshot by bit numbers of offset 16, Positive first (R171). -/
theorem signOf_bits (f : Snapshot) :
    signOf f =
      if f[16].getLsbD 2 then .positive else if f[16].getLsbD 6 then .negative else .noSign :=
  signOfByte_bits f[16]

/-- Settles O25: BITTEST answers `bitTest` of its operands and writes nothing else. -/
theorem bitTestReadsTheNamedBit : Obligations.BitTestReadsTheNamedBit := by
  intro s f o n hn
  rw [← bitTest_singleMask f o hn rfl]
  rfl

/-- Settles O26: ANNUN answers `annunOf` of the snapshot and writes nothing else. -/
theorem annunciatorsAreTheNamedBits : Obligations.AnnunciatorsAreTheNamedBits := by
  intro s f
  refine ⟨annunOf s.cfg.tables f, rfl, annunOf_names _ f, fun k e n he hn hmask => ?entry,
    fun hwf b => ?rem⟩
  case entry => rw [annunOf_getElem? he, bitTest_singleMask f _ hn hmask]
  case rem =>
    obtain ⟨_, _, _, hannun, _⟩ := hwf
    exact rem_mem_annunOf_iff hannun

/-- Settles O27: BAR answers `barOf` of the snapshot and writes nothing else. -/
theorem bargraphIsTheNamedBits : Obligations.BargraphIsTheNamedBits := by
  intro s f
  refine ⟨barOf s.cfg.tables f, rfl, fun j n hn hmask => ?_⟩
  rw [barOf_get, bitTest_singleMask f _ hn hmask]

/-- Settles O29: DPOINTS answers `pointsOf` of the snapshot, whose bytes are not masked, and writes
nothing else. -/
theorem decimalPointsAreTheNamedBits : Obligations.DecimalPointsAreTheNamedBits := by
  intro s f
  refine ⟨pointsOf s.cfg.tables f, rfl, fun p n hn hmask => ?_⟩
  rw [pointsOf_get, bitTest_singleMask f _ hn hmask]

/-- Settles O30: SIGN answers `signOf` of the snapshot and writes nothing else; each row of R171 picks
one branch of `signOf_bits`. -/
theorem signTestsPositiveFirst : Obligations.SignTestsPositiveFirst := by
  intro s f
  refine ⟨signOf f, rfl, fun hpos => ?positive, fun hpos hneg => ?negative,
    fun hpos hneg => ?noSign⟩
  case positive => rw [signOf_bits, if_pos hpos]
  case negative => rw [signOf_bits, if_neg (ne_true_of_eq_false hpos), if_pos hneg]
  case noSign =>
    rw [signOf_bits, if_neg (ne_true_of_eq_false hpos), if_neg (ne_true_of_eq_false hneg)]

end Sys2Proof.Proofs.BitFields
end

section
/-!
PROOFS. The table lookups of a snapshot (43_interpreter_bitfields.md, R169, R172 and R173): the
characters of the digit bytes and the glyphs of the two big-endian codes, in terms of the tables'
entries, and the statements about DIGITS, UNIT and PREFIX from it.
-/

namespace Sys2Proof.Proofs.FrameLookups

open Sys2Proof.Machine
open Sys2Proof.Proofs.GlyphDecoders

variable {t : Tables} {f : Snapshot} {code : Code}

/-- A glyph code is determined by its big-endian value (R61). -/
theorem glyphCode_eq_of_toNat {hi lo : Byte} (hcode : code.toNat = hi.toNat * 256 + lo.toNat) :
    glyphCode hi lo = code :=
  BitVec.eq_of_toNat_eq ((glyphCode_toNat hi lo).trans hcode.symm)

/-- UNIT decodes the code whose high byte is at offset 5 (R172). -/
theorem unitOf_eq_unitResult (hcode : code.toNat = f[5].toNat * 256 + f[6].toNat) :
    unitOf t f = unitResult t code := by
  rw [unitOf, glyphCode_eq_of_toNat hcode]

/-- PREFIX decodes the code whose high byte is at offset 3 (R173). -/
theorem prefixOf_eq_prefixResult (hcode : code.toNat = f[3].toNat * 256 + f[4].toNat) :
    prefixOf t f = prefixResult t code := by
  rw [prefixOf, glyphCode_eq_of_toNat hcode]

/-- Settles O28: DIGITS answers `digitsOf` of the snapshot and writes nothing else; R40 makes the
entry of a masked byte the only one. -/
theorem digitsDecodeTheMaskedBytes : Obligations.DigitsDecodeTheMaskedBytes := by
  intro s f hwf
  obtain ⟨⟨_, hnodup, _⟩, _⟩ := hwf
  refine ⟨digitsOf s.cfg.tables f, rfl, fun i o ho => ?_⟩
  rw [digitsOf_get s.cfg.tables f i o ho]
  exact ⟨fun c hmem => lookup_of_mem hnodup hmem, fun hnot => lookup_of_not_mem hnot⟩

/-- Settles O32: UNIT answers `unitOf` of the snapshot and writes nothing else. -/
theorem unitGlyphFromBytesFiveAndSix : Obligations.UnitGlyphFromBytesFiveAndSix := by
  intro s f code hwf hcode
  obtain ⟨_, hunit, _⟩ := hwf
  refine ⟨unitOf s.cfg.tables f, rfl, ?_⟩
  rw [unitOf_eq_unitResult hcode]
  exact ⟨fun g hmem => unitResult_of_mem hunit hmem, unitResult_of_not_mem⟩

/-- Settles O33: PREFIX answers `prefixOf` of the snapshot and writes nothing else. -/
theorem prefixGlyphFromBytesThreeAndFour : Obligations.PrefixGlyphFromBytesThreeAndFour := by
  intro s f code hwf hcode
  obtain ⟨_, _, hprefix, _⟩ := hwf
  refine ⟨prefixOf s.cfg.tables f, rfl, ?_⟩
  rw [prefixOf_eq_prefixResult hcode]
  exact ⟨fun g hmem => prefixResult_of_mem hprefix hmem, prefixResult_of_not_mem⟩

end Sys2Proof.Proofs.FrameLookups
end

section
/-!
PROOFS. What the operations that can be refused answer, one equation for each outcome of their
guards (40_reassembler.md R121 to R129, 43_interpreter_bitfields.md R165), and the statements that
are about one operation in one state.
-/

namespace Sys2Proof.Proofs.Operations

open Sys2Proof.Machine

variable {s : State} {len : Nat} {bytes : List Byte}

theorem recognised_eq_true_iff : recognised len = true ↔ len = 22 ∨ len = 8 := by
  simp [recognised]

theorem recognised_eq_false_iff : recognised len = false ↔ len ≠ 22 ∧ len ≠ 8 := by
  simp [recognised]

theorem wholeTransfer_refused_inProgress {t : State} (hactive : s.rxActive = true) :
    wholeTransfer len bytes s t = .refused .transferInProgress := by
  rw [wholeTransfer, if_pos hactive]

theorem wholeTransfer_refused_byteCount {t : State} (hq : s.rxActive = false)
    (hlen : bytes.length ≠ len) :
    wholeTransfer len bytes s t = .refused (.byteCountMismatch len bytes.length) := by
  rw [wholeTransfer, if_neg (ne_true_of_eq_false hq), if_neg hlen]

/-- XFER.IGN with a length that is none of the recognised ones is a whole transfer without effect.
-/
theorem exec_xferIgn_eq_wholeTransfer (h22 : len ≠ 22) (h8 : len ≠ 8) :
    exec (.xferIgn len bytes) s = wholeTransfer len bytes s s :=
  if_neg (ne_true_of_eq_false (recognised_eq_false_iff.2 ⟨h22, h8⟩))

theorem exec_xferIgn (hq : s.rxActive = false) (h22 : len ≠ 22) (h8 : len ≠ 8)
    (hlen : bytes.length = len) : exec (.xferIgn len bytes) s = .next s :=
  (exec_xferIgn_eq_wholeTransfer h22 h8).trans (wholeTransfer_next.2 ⟨hq, hlen, rfl⟩)

theorem exec_xferIgn_refused_recognised (hrec : len = 22 ∨ len = 8) :
    exec (.xferIgn len bytes) s = .refused (.recognisedLength len) :=
  if_pos (recognised_eq_true_iff.2 hrec)

theorem exec_xferBegin (hq : s.rxActive = false) :
    exec (.xferBegin len) s = .next (s.setRx len 0 (decide (0 < len))) :=
  if_neg (ne_true_of_eq_false hq)

theorem exec_xferBegin_refused (hactive : s.rxActive = true) :
    exec (.xferBegin len) s = .refused .transferInProgress :=
  if_pos hactive

theorem exec_xferByte {b : Byte} (hactive : s.rxActive = true) :
    exec (.xferByte b) s = .next (afterByte b s) :=
  (execXferByte_eq b s).trans (if_pos hactive)

theorem exec_xferByte_refused {b : Byte} (hq : s.rxActive = false) :
    exec (.xferByte b) s = .refused .noTransferInProgress :=
  (execXferByte_eq b s).trans (if_neg (ne_true_of_eq_false hq))

theorem exec_interpret (hready : s.frameReady = true) (hq : s.rxActive = false) :
    exec .interpret s = .next (interpretNow s) :=
  if_pos ((interpretEnabled_iff s).2 ⟨hready, hq⟩)

theorem exec_interpret_notEnabled (h : ¬(s.frameReady = true ∧ s.rxActive = false)) :
    exec .interpret s = .next s :=
  if_neg fun henabled => h ((interpretEnabled_iff s).1 henabled)

theorem exec_reset : exec .reset s = .next (afterReset s) := rfl

/-- INTERPRET's effect as a whole: the fields it writes (R165). -/
theorem interpretNow_eq (s : State) :
    interpretNow s =
      { s with
        ds := some (interpretFn s.cfg.tables (snapshot s.frame)), dsValid := true,
        frameReady := false } := rfl

/-- Settles O1: the state after RESET is `afterReset`, whose fields are those of the reset table. -/
theorem resetGivesTheResetTable : Obligations.ResetGivesTheResetTable := fun s =>
  ⟨afterReset s, exec_reset, afterReset_rf s, rfl, rfl, rfl, rfl, rfl, rfl, rfl⟩

/-- Settles O2: the initial frame lists no cell, so that every offset reads 0xFF. -/
theorem initialStateIsTheDefaultReset : Obligations.InitialStateIsTheDefaultReset :=
  ⟨fun _ => rfl, rfl, rfl, rfl, rfl, rfl, rfl, rfl, rfl, rfl, rfl⟩

/-- Settles O3: a frame filled with the byte that unlisted offsets read as has no cell. -/
theorem resetReturnsToTheInitialState : Obligations.ResetReturnsToTheInitialState := by
  intro s hsentinel
  have hframe : storeFrom [] 0 (List.replicate 20 s.cfg.resetSentinel) = [] := by
    rw [hsentinel]; decide
  rw [exec_reset, afterReset, hframe]
  rfl

/-- Settles O6: XFER.IGN of a length that is neither 22 nor 8 stores nothing. -/
theorem ignoredTransferChangesNothing : Obligations.IgnoredTransferChangesNothing :=
  fun _ _ _ hq h22 h8 hlen => exec_xferIgn hq h22 h8 hlen

/-- Settles O7: XFER_BEGIN writes the three sequencing registers alone. -/
theorem beginLatchesTheLength : Obligations.BeginLatchesTheLength :=
  fun _ _ hq => exec_xferBegin hq

/-- Settles O15: `exec` answers the raised and the lowered state. -/
theorem signalEffectsWriteOnlyFrameReady : Obligations.SignalEffectsWriteOnlyFrameReady :=
  fun _ => ⟨rfl, rfl⟩

/-- Settles O18: both stimuli decode, and `bareEffect` names what they decode to. -/
theorem bareEffectsAreNoEvents : Obligations.BareEffectsAreNoEvents :=
  fun _ _ => ⟨rfl, rfl⟩

/-- Settles O34: with the guard true INTERPRET answers `interpretNow`. -/
theorem interpretRecomputesTheDisplay : Obligations.InterpretRecomputesTheDisplay := by
  intro s hready hq
  rw [exec_interpret hready hq, interpretNow_eq]

/-- Settles O35: with the guard false INTERPRET answers the state itself. -/
theorem interpretNotEnabledChangesNothing : Obligations.InterpretNotEnabledChangesNothing :=
  fun _ => exec_interpret_notEnabled

/-- Settles O36: `interpretFn` has as its fields the functions the sub-operations answer, and these
read nothing of a state but its tables. -/
theorem interpretAgreesWithItsSubOperations : Obligations.InterpretAgreesWithItsSubOperations := by
  intro s t hready hq hexec
  rw [exec_interpret hready hq] at hexec
  cases hexec
  refine ⟨interpretFn s.cfg.tables (snapshot s.frame), rfl, fun u htables => ?_⟩
  rw [← htables]
  exact ⟨rfl, rfl, rfl, rfl, rfl, rfl, rfl⟩

/-- A byte that does not end a recognised transfer leaves the flag and the display (R125). -/
theorem afterByte_keeps_display {b : Byte}
    (h : ¬(s.rxIdx + 1 = s.rxLen ∧ (s.rxLen = 22 ∨ s.rxLen = 8))) :
    (afterByte b s).frameReady = s.frameReady ∧ (afterByte b s).ds = s.ds ∧
      (afterByte b s).dsValid = s.dsValid := by
  by_cases hlast : s.rxIdx + 1 = s.rxLen
  · have hign : recognised s.rxLen = false :=
      recognised_eq_false_iff.2 (not_or.1 fun hrec => h ⟨hlast, hrec⟩)
    rw [afterByte_ignored b hlast hign]
    exact ⟨rfl, rfl, rfl⟩
  · rw [afterByte_mid b hlast]
    exact ⟨rfl, rfl, rfl⟩

/-- At the end of a recognised transfer the Polled policy only raises the flag. -/
theorem afterByte_completes_polled {b : Byte} (hlast : s.rxIdx + 1 = s.rxLen)
    (hrec : s.rxLen = 22 ∨ s.rxLen = 8) (hp : s.cfg.policy = .polled) :
    (afterByte b s).frameReady = true ∧ (afterByte b s).ds = s.ds ∧
      (afterByte b s).dsValid = s.dsValid := by
  rw [afterByte_completes b hlast (recognised_eq_true_iff.2 hrec),
    completeTransfer_polled (by exact hp)]
  exact ⟨rfl, rfl, rfl⟩

/-- Settles O8: `afterByte` writes the byte at its write offset, and completes at the last one. -/
theorem byteOfATransferIsStoredOrDropped : Obligations.ByteOfATransferIsStoredOrDropped := by
  intro s b hactive
  refine ⟨afterByte b s, exec_xferByte hactive, fun o => ?frame, afterByte_rxLen b s,
    afterByte_rxIdx b s, afterByte_rxActive b s, afterByte_keeps_display,
    afterByte_completes_polled, afterByte_cfg b s, afterByte_inputs b s, afterByte_result b s⟩
  case frame =>
    rw [State.rf, afterByte_frame, readByte_receiveByte]
    simp only [writeOffset_eq_some]
    rfl

end Sys2Proof.Proofs.Operations
end

section
/-!
PROOFS. Whole transfers of any declared length and their byte-serial form (40_reassembler.md R121 to
R129): what a transfer does, once for the three shapes and for both levels, and the statements about
one transfer from it.
-/

namespace Sys2Proof.Proofs.Transfers

open Sys2Proof.Machine
open Sys2Proof.Proofs.WholeTransfers
open Sys2Proof.Proofs.Operations

variable {s : State} {bytes : List Byte}

/-- The state after a whole transfer, by the number of its bytes (R103). -/
def afterTransfer (bytes : List Byte) (s : State) : State :=
  if bytes.length = 22 then storePayload 3 bytes s
  else if bytes.length = 8 then storePayload 0 bytes s
  else s

theorem afterTransfer_primary (h22 : bytes.length = 22) :
    afterTransfer bytes s = storePayload 3 bytes s := if_pos h22

theorem afterTransfer_secondary (h8 : bytes.length = 8) :
    afterTransfer bytes s = storePayload 0 bytes s := by
  rw [afterTransfer, if_neg (by omega), if_pos h8]

theorem afterTransfer_ignored (h22 : bytes.length ≠ 22) (h8 : bytes.length ≠ 8) :
    afterTransfer bytes s = s := by
  rw [afterTransfer, if_neg h22, if_neg h8]

theorem selectTransfer_primary (h22 : bytes.length = 22) :
    selectTransfer bytes.length bytes = .xferPri bytes := if_pos h22

theorem selectTransfer_secondary (h8 : bytes.length = 8) :
    selectTransfer bytes.length bytes = .xferSec bytes := by
  rw [selectTransfer, if_neg (by omega), if_pos h8]

theorem selectTransfer_ignored (h22 : bytes.length ≠ 22) (h8 : bytes.length ≠ 8) :
    selectTransfer bytes.length bytes = .xferIgn bytes.length bytes := by
  rw [selectTransfer, if_neg h22, if_neg h8]

/-- The three shapes of a declared length (R103). -/
theorem length_shapes (bytes : List Byte) :
    bytes.length = 22 ∨ bytes.length = 8 ∨ (bytes.length ≠ 22 ∧ bytes.length ≠ 8) := by
  omega

/-- What the operation that a transfer's length selects answers in a quiescent state. -/
theorem exec_selectTransfer (hq : s.rxActive = false) :
    exec (selectTransfer bytes.length bytes) s = .next (afterTransfer bytes s) := by
  rcases length_shapes bytes with h22 | h8 | ⟨h22, h8⟩
  · rw [selectTransfer_primary h22, afterTransfer_primary h22, exec_xferPri hq h22]
  · rw [selectTransfer_secondary h8, afterTransfer_secondary h8, exec_xferSec hq h8]
  · rw [selectTransfer_ignored h22 h8, afterTransfer_ignored h22 h8, exec_xferIgn hq h22 h8 rfl]

/-- A whole transfer inside another one is ill-formed input (R129). -/
theorem exec_selectTransfer_refused (hactive : s.rxActive = true) :
    exec (selectTransfer bytes.length bytes) s = .refused .transferInProgress := by
  rcases length_shapes bytes with h22 | h8 | ⟨h22, h8⟩
  · rw [selectTransfer_primary h22]; exact wholeTransfer_refused_inProgress hactive
  · rw [selectTransfer_secondary h8]; exact wholeTransfer_refused_inProgress hactive
  · rw [selectTransfer_ignored h22 h8, exec_xferIgn_eq_wholeTransfer h22 h8]
    exact wholeTransfer_refused_inProgress hactive

/-- The whole transfers are the operations that a declared length selects for its own bytes. -/
theorem exists_of_isTransfer {i : Instr} (h : isTransfer i = true) :
    ∃ bytes, i = selectTransfer bytes.length bytes := by
  cases i with
  | xferPri bytes => exact ⟨bytes, (selectTransfer_primary (of_decide_eq_true h)).symm⟩
  | xferSec bytes => exact ⟨bytes, (selectTransfer_secondary (of_decide_eq_true h)).symm⟩
  | xferIgn len bytes =>
    obtain ⟨h22, h8, rfl⟩ := of_decide_eq_true h
    exact ⟨bytes, (selectTransfer_ignored h22 h8).symm⟩
  | _ => cases h

/-! ## What a transfer leaves unchanged -/

theorem afterTransfer_induction {P : State → Prop} (hstored : ∀ base, P (storePayload base bytes s))
    (hignored : P s) : P (afterTransfer bytes s) := by
  rcases length_shapes bytes with h22 | h8 | ⟨h22, h8⟩
  · rw [afterTransfer_primary h22]; exact hstored 3
  · rw [afterTransfer_secondary h8]; exact hstored 0
  · rw [afterTransfer_ignored h22 h8]; exact hignored

@[simp] theorem afterTransfer_rxLen : (afterTransfer bytes s).rxLen = s.rxLen :=
  afterTransfer_induction (P := fun t => t.rxLen = s.rxLen) (by simp [storePayload]) rfl

@[simp] theorem afterTransfer_rxIdx : (afterTransfer bytes s).rxIdx = s.rxIdx :=
  afterTransfer_induction (P := fun t => t.rxIdx = s.rxIdx) (by simp [storePayload]) rfl

@[simp] theorem afterTransfer_rxActive : (afterTransfer bytes s).rxActive = s.rxActive :=
  afterTransfer_induction (P := fun t => t.rxActive = s.rxActive) (by simp [storePayload]) rfl

@[simp] theorem afterTransfer_cfg : (afterTransfer bytes s).cfg = s.cfg :=
  afterTransfer_induction (P := fun t => t.cfg = s.cfg) (by simp [storePayload]) rfl

/-! ## The byte-serial form -/

/-- RawFrame once the bytes from receivedIndex `i` on have come (R91 to R93): those of index 5 on
are stored, at ascending offsets. -/
def storeRest (len i : Nat) (m : Memory) (rest : List Byte) : Memory :=
  if len = 22 then storeFrom m (3 + (i - 5)) (rest.drop (5 - i))
  else if len = 8 then storeFrom m (0 + (i - 5)) (rest.drop (5 - i))
  else m

@[simp] theorem storeRest_nil (len i : Nat) (m : Memory) : storeRest len i m [] = m := by
  simp [storeRest, storeFrom]

theorem receiveByte_preamble {b : Byte} (h : s.rxIdx < 5) : receiveByte b s = s.frame := by
  rw [receiveByte, writeOffset_preamble h]

theorem receiveByte_ignored {b : Byte} (h22 : s.rxLen ≠ 22) (h8 : s.rxLen ≠ 8) :
    receiveByte b s = s.frame := by
  rw [receiveByte, writeOffset_ignored (recognised_eq_false_iff.2 ⟨h22, h8⟩)]

/-- A payload byte of a recognised transfer goes to the cell `base + (rx_idx - 5)` (R99). -/
theorem receiveByte_payload {b : Byte} {base : Nat}
    (hshape : (s.rxLen = 22 ∧ base = 3) ∨ (s.rxLen = 8 ∧ base = 0)) (h5 : 5 ≤ s.rxIdx)
    (hlt : s.rxIdx < s.rxLen) : receiveByte b s = writeCell s.frame (base + (s.rxIdx - 5)) b := by
  have hoffset : writeOffset s.rxLen s.rxIdx = some ⟨base + (s.rxIdx - 5), by omega⟩ := by
    rw [writeOffset_eq_some]
    simp only []
    omega
  rw [receiveByte, hoffset]
  rfl

/-- One byte more of a recognised transfer's rest: dropped in the preamble, stored after it. -/
theorem storeFrom_receiveByte {b : Byte} {rest : List Byte} {base : Nat}
    (hshape : (s.rxLen = 22 ∧ base = 3) ∨ (s.rxLen = 8 ∧ base = 0)) (hlt : s.rxIdx < s.rxLen) :
    storeFrom (receiveByte b s) (base + (s.rxIdx + 1 - 5)) (rest.drop (5 - (s.rxIdx + 1))) =
      storeFrom s.frame (base + (s.rxIdx - 5)) ((b :: rest).drop (5 - s.rxIdx)) := by
  by_cases h5 : s.rxIdx < 5
  · have hdrop : 5 - s.rxIdx = 5 - (s.rxIdx + 1) + 1 := by omega
    have hbase : s.rxIdx + 1 - 5 = s.rxIdx - 5 := by omega
    rw [receiveByte_preamble h5, hdrop, List.drop_succ_cons, hbase]
  · have hnone : 5 - s.rxIdx = 0 := by omega
    have hnone' : 5 - (s.rxIdx + 1) = 0 := by omega
    have hbase : base + (s.rxIdx + 1 - 5) = base + (s.rxIdx - 5) + 1 := by omega
    rw [receiveByte_payload hshape (by omega) hlt, hnone, hnone', List.drop_zero, List.drop_zero,
      hbase, storeFrom]

/-- One byte more of any transfer's rest. -/
theorem storeRest_receiveByte {b : Byte} {rest : List Byte} (hlt : s.rxIdx < s.rxLen) :
    storeRest s.rxLen (s.rxIdx + 1) (receiveByte b s) rest =
      storeRest s.rxLen s.rxIdx s.frame (b :: rest) := by
  unfold storeRest
  split
  case isTrue h22 => exact storeFrom_receiveByte (.inl ⟨h22, rfl⟩) hlt
  case isFalse h22 =>
    split
    case isTrue h8 => exact storeFrom_receiveByte (.inr ⟨h8, rfl⟩) hlt
    case isFalse h8 => exact receiveByte_ignored h22 h8

/-- What the last byte of a transfer brings about beside its own storing (R125). -/
def endTransfer (s : State) : State :=
  if recognised s.rxLen then completeTransfer s else s

theorem afterByte_last {b : Byte} (hlast : s.rxIdx + 1 = s.rxLen) :
    afterByte b s = endTransfer ((s.setFrame (receiveByte b s)).setRx s.rxLen s.rxLen false) := by
  unfold endTransfer
  rw [State.setRx_rxLen]
  split
  case isTrue hrec => rw [afterByte_completes b hlast hrec, hlast]
  case isFalse hrec => rw [afterByte_ignored b hlast (eq_false_of_ne_true hrec), hlast]

/-- The bytes that a transfer in progress still lacks, presented one by one: the rest is stored and
the transfer ends. -/
theorem execAll_xferByte (b : Byte) (rest : List Byte) (s : State) (hactive : s.rxActive = true)
    (hcount : s.rxIdx + (b :: rest).length = s.rxLen) :
    execAll ((b :: rest).map .xferByte) s =
      .next (endTransfer ((s.setFrame (storeRest s.rxLen s.rxIdx s.frame (b :: rest))).setRx
        s.rxLen s.rxLen false)) := by
  induction rest generalizing b s with
  | nil =>
    rw [List.map_cons, execAll, exec_xferByte hactive, afterByte_last hcount,
      ← storeRest_receiveByte (Nat.lt_of_succ_le (Nat.le_of_eq hcount)), storeRest_nil]
    rfl
  | cons c rest ih =>
    simp only [List.length_cons] at hcount
    have hmid : afterByte b s =
        (s.setFrame (receiveByte b s)).setRx s.rxLen (s.rxIdx + 1) true :=
      afterByte_mid b (by omega)
    calc execAll ((b :: c :: rest).map .xferByte) s
      _ = execAll ((c :: rest).map .xferByte) (afterByte b s) := by
        rw [List.map_cons, execAll, exec_xferByte hactive]
      _ = .next (endTransfer ((s.setFrame (storeRest s.rxLen (s.rxIdx + 1) (receiveByte b s)
            (c :: rest))).setRx s.rxLen s.rxLen false)) := by
        rw [hmid]
        exact ih c _ rfl
          (by simp only [State.setRx_rxIdx, State.setRx_rxLen, List.length_cons]; omega)
      _ = _ := by rw [storeRest_receiveByte (by omega)]

theorem completeTransfer_setRx (s : State) (n i : Nat) (b : Bool) :
    completeTransfer (s.setRx n i b) = (completeTransfer s).setRx n i b := by
  cases hpolicy : s.cfg.policy with
  | polled =>
    rw [completeTransfer_polled hpolicy, completeTransfer_polled (s := s.setRx n i b) hpolicy]; rfl
  | immediate =>
    rw [completeTransfer_immediate hpolicy, completeTransfer_immediate (s := s.setRx n i b) hpolicy]
    rfl

/-- With no byte received yet, the end of the transfer is that of the whole one. -/
theorem endTransfer_storeRest_zero (bytes : List Byte) (s : State) :
    endTransfer ((s.setFrame (storeRest bytes.length 0 s.frame bytes)).setRx bytes.length
      bytes.length false) = (afterTransfer bytes s).setRx bytes.length bytes.length false := by
  unfold endTransfer
  rw [State.setRx_rxLen]
  rcases length_shapes bytes with h22 | h8 | ⟨h22, h8⟩
  · rw [if_pos (recognised_eq_true_iff.2 (.inl h22)), completeTransfer_setRx,
      afterTransfer_primary h22, storeRest, if_pos h22]
    rfl
  · rw [if_pos (recognised_eq_true_iff.2 (.inr h8)), completeTransfer_setRx,
      afterTransfer_secondary h8, storeRest, if_neg (by omega), if_pos h8]
    rfl
  · rw [if_neg (ne_true_of_eq_false (recognised_eq_false_iff.2 ⟨h22, h8⟩)),
      afterTransfer_ignored h22 h8, storeRest, if_neg h22, if_neg h8]
    rfl

/-- The byte-serial form of a transfer does what the whole transfer does, and leaves the sequencing
registers at the end of the transfer (R126). -/
theorem execAll_levelB (hq : s.rxActive = false) :
    execAll (levelB bytes) s =
      .next ((afterTransfer bytes s).setRx bytes.length bytes.length false) := by
  rw [levelB, execAll, exec_xferBegin hq]
  cases bytes with
  | nil => rfl
  | cons b rest =>
    exact (execAll_xferByte b rest (s.setRx _ 0 true) rfl (Nat.zero_add _)).trans
      (congrArg _ (endTransfer_storeRest_zero (b :: rest) s))

/-! ## The statements about one transfer -/

/-- Settles O12: by the induction over the bytes of `execAll_xferByte`, both forms end in
`afterTransfer`, but for the sequencing registers. -/
theorem byteSerialRefinesWholeTransfer : Obligations.ByteSerialRefinesWholeTransfer := fun _ _ hq =>
  ⟨_, _, execAll_levelB hq, exec_selectTransfer hq, rfl, rfl, rfl, rfl⟩

/-- The five preamble bytes do not enter the state after a transfer. -/
theorem afterTransfer_congr {xs ys : List Byte} (hlen : xs.length = ys.length)
    (hpayload : xs.drop 5 = ys.drop 5) : afterTransfer xs s = afterTransfer ys s := by
  simp only [afterTransfer, storePayload, hlen, hpayload]

/-- Settles O11: at either level the outcome depends on the state, the length and the payload. -/
theorem preambleBytesHaveNoEffect : Obligations.PreambleBytesHaveNoEffect := by
  intro s xs ys hlen hpayload
  cases hactive : s.rxActive with
  | false =>
    rw [exec_selectTransfer hactive, exec_selectTransfer hactive, execAll_levelB hactive,
      execAll_levelB hactive, afterTransfer_congr hlen hpayload, hlen]
    exact ⟨rfl, rfl⟩
  | true =>
    rw [exec_selectTransfer_refused hactive, exec_selectTransfer_refused hactive]
    simp only [levelB, execAll, exec_xferBegin_refused hactive, and_self]

/-- Settles O57: no whole transfer writes the sequencing registers. -/
theorem wholeTransfersKeepTheSequencingRegisters :
    Obligations.WholeTransfersKeepTheSequencingRegisters := by
  intro i s htransfer hq
  obtain ⟨bytes, rfl⟩ := exists_of_isTransfer htransfer
  exact ⟨afterTransfer bytes s, exec_selectTransfer hq, afterTransfer_rxLen, afterTransfer_rxIdx,
    afterTransfer_rxActive⟩

/-- Settles O9: each event is refused by the guard that names its fault. -/
theorem illFormedEventsAreRefused : Obligations.IllFormedEventsAreRefused := by
  refine ⟨fun s len hactive => exec_xferBegin_refused hactive,
    fun s b hq => exec_xferByte_refused hq, fun len bytes hlen => if_neg hlen,
    fun s i htransfer hactive => ?inside, fun s bytes hq hlen => ?primary,
    fun s bytes hq hlen => ?secondary, fun s len bytes hq h22 h8 hlen => ?ignored,
    fun s len bytes hrec => exec_xferIgn_refused_recognised hrec⟩
  case inside =>
    obtain ⟨bytes, rfl⟩ := exists_of_isTransfer htransfer
    exact exec_selectTransfer_refused hactive
  case primary => exact wholeTransfer_refused_byteCount hq hlen
  case secondary => exact wholeTransfer_refused_byteCount hq hlen
  case ignored =>
    rw [exec_xferIgn_eq_wholeTransfer h22 h8]
    exact wholeTransfer_refused_byteCount hq hlen

/-- A transfer with its own count as declared length decodes to the operation that length selects.
-/
theorem decode_xfer (bytes : List Byte) :
    decode ⟨.xfer, bytes.length, bytes⟩ = .ok (selectTransfer bytes.length bytes) :=
  if_pos rfl

/-- Settles O10: the selection looks at the length alone. -/
theorem declaredLengthSelectsTheOperation : Obligations.DeclaredLengthSelectsTheOperation := by
  intro bytes
  rw [decode_xfer]
  exact ⟨fun h22 => by rw [selectTransfer_primary h22],
    fun h8 => by rw [selectTransfer_secondary h8],
    fun h22 h8 => by rw [selectTransfer_ignored h22 h8]⟩

end Sys2Proof.Proofs.Transfers
end

section
/-!
PROOFS. Sequences of whole transfers (40_reassembler.md R128, 44_frame_ready.md R192): one induction
over the sequence, with the latest payloads and the flag as its two uses, and the sequences with
INTERPRET between the transfers (20_memory.md R65, R72).
-/

namespace Sys2Proof.Proofs.Sequences

open Sys2Proof.Machine
open Sys2Proof.Proofs.WholeTransfers
open Sys2Proof.Proofs.Operations
open Sys2Proof.Proofs.Transfers

variable {s t u : State} {bytes : List Byte} {o : Offset}

theorem execAll_cons {i : Instr} (is : List Instr) (h : exec i s = .next u) :
    execAll (i :: is) s = execAll is u := by
  rw [execAll, h]

/-- What holds of the empty sequence, and of a sequence if it holds of its tail from the state after
its first transfer, holds of every sequence of transfers; each completes in a quiescent state. -/
theorem execAll_transfers {P : List Instr → State → State → Prop} (hnil : ∀ s, P [] s s)
    (hcons : ∀ bytes is s t, P is (afterTransfer bytes s) t →
      P (selectTransfer bytes.length bytes :: is) s t)
    (ops : List Instr) (s : State) (hq : s.rxActive = false)
    (hops : ∀ i ∈ ops, isTransfer i = true) :
    ∃ t, execAll ops s = .next t ∧ t.rxActive = false ∧ P ops s t := by
  induction ops generalizing s with
  | nil => exact ⟨s, rfl, hq, hnil s⟩
  | cons i is ih =>
    obtain ⟨hi, his⟩ := List.forall_mem_cons.1 hops
    obtain ⟨bytes, rfl⟩ := exists_of_isTransfer hi
    obtain ⟨t, hrun, hqt, hP⟩ := ih (afterTransfer bytes s) (afterTransfer_rxActive.trans hq) his
    exact ⟨t, (execAll_cons is (exec_selectTransfer hq)).trans hrun, hqt, hcons bytes is s t hP⟩

/-! ## The latest payloads -/

/-- The bytes of an operation that is a Primary. -/
def primaryOf : Instr → Option (List Byte)
  | .xferPri bytes => some bytes
  | _ => none

/-- The bytes of an operation that is a Secondary. -/
def secondaryOf : Instr → Option (List Byte)
  | .xferSec bytes => some bytes
  | _ => none

theorem lastPrimary_cons (i : Instr) (is : List Instr) :
    lastPrimary (i :: is) = (lastPrimary is).or (primaryOf i) := by
  cases h : lastPrimary is with
  | some b => simp [lastPrimary, h]
  | none => cases i <;> simp [lastPrimary, h, primaryOf]

theorem lastSecondary_cons (i : Instr) (is : List Instr) :
    lastSecondary (i :: is) = (lastSecondary is).or (secondaryOf i) := by
  cases h : lastSecondary is with
  | some b => simp [lastSecondary, h]
  | none => cases i <;> simp [lastSecondary, h, secondaryOf]

/-- From `s` to `t` offset `o` took byte `o + shift` of the bytes given, or kept its value where
none are. -/
def Holds (last : Option (List Byte)) (shift : Nat) (o : Offset) (s t : State) : Prop :=
  (last = none → t.rf o = s.rf o) ∧ ∀ b, last = some b → b[o.val + shift]? = some (t.rf o)

theorem holds_none {shift : Nat} (h : t.rf o = s.rf o) : Holds none shift o s t :=
  ⟨fun _ => h, nofun⟩

theorem holds_some {shift : Nat} (h : bytes[o.val + shift]? = some (t.rf o)) :
    Holds (some bytes) shift o s t :=
  ⟨nofun, fun _ hb => Option.some.inj hb ▸ h⟩

/-- The later payload stands. -/
theorem Holds.trans {first last : Option (List Byte)} {shift : Nat}
    (hfirst : Holds first shift o s u) (hlast : Holds last shift o u t) :
    Holds (last.or first) shift o s t := by
  cases last with
  | some b => exact holds_some (hlast.2 b rfl)
  | none =>
    have hkept : t.rf o = u.rf o := hlast.1 rfl
    rw [Option.none_or, Holds, hkept]
    exact hfirst

/-- Offsets 3 to 19 after one transfer of any shape (R121 to R123). -/
theorem holds_primaryOf (ho : 3 ≤ o.val) :
    Holds (primaryOf (selectTransfer bytes.length bytes)) 2 o s (afterTransfer bytes s) := by
  rcases length_shapes bytes with h22 | h8 | ⟨h22, h8⟩
  · rw [selectTransfer_primary h22, afterTransfer_primary h22]
    exact holds_some (storePayload_rf_of_received (by omega) (by omega) (by omega))
  · rw [selectTransfer_secondary h8, afterTransfer_secondary h8]
    exact holds_none (storePayload_rf_of_not_received (.inr (by omega)))
  · rw [selectTransfer_ignored h22 h8, afterTransfer_ignored h22 h8]
    exact holds_none rfl

/-- Offsets 0 to 2 after one transfer of any shape (R121 to R123). -/
theorem holds_secondaryOf (ho : o.val < 3) :
    Holds (secondaryOf (selectTransfer bytes.length bytes)) 5 o s (afterTransfer bytes s) := by
  rcases length_shapes bytes with h22 | h8 | ⟨h22, h8⟩
  · rw [selectTransfer_primary h22, afterTransfer_primary h22]
    exact holds_none (storePayload_rf_of_not_received (.inl ho))
  · rw [selectTransfer_secondary h8, afterTransfer_secondary h8]
    exact holds_some (storePayload_rf_of_received (by omega) (by omega) (by omega))
  · rw [selectTransfer_ignored h22 h8, afterTransfer_ignored h22 h8]
    exact holds_none rfl

/-- R128: each part of the frame holds the payload of the latest transfer of its shape. -/
def HoldsLatest (ops : List Instr) (s t : State) : Prop :=
  (∀ o : Offset, 3 ≤ o.val → Holds (lastPrimary ops) 2 o s t) ∧
    ∀ o : Offset, o.val < 3 → Holds (lastSecondary ops) 5 o s t

theorem holdsLatest_nil (s : State) : HoldsLatest [] s s :=
  ⟨fun _ _ => holds_none rfl, fun _ _ => holds_none rfl⟩

theorem holdsLatest_cons (bytes : List Byte) (is : List Instr) (s t : State)
    (h : HoldsLatest is (afterTransfer bytes s) t) :
    HoldsLatest (selectTransfer bytes.length bytes :: is) s t := by
  rw [HoldsLatest, lastPrimary_cons, lastSecondary_cons]
  exact ⟨fun o ho => (holds_primaryOf ho).trans (h.1 o ho),
    fun o ho => (holds_secondaryOf ho).trans (h.2 o ho)⟩

/-- Settles O13, by induction over the sequence: a later payload replaces an earlier one. -/
theorem frameHoldsTheLatestPayloads : Obligations.FrameHoldsTheLatestPayloads :=
  fun ops s hq hops => execAll_transfers holdsLatest_nil holdsLatest_cons ops s hq hops

/-! ## The flag -/

/-- Under the Polled policy the flag has risen exactly where a recognised transfer has completed. -/
def FlagAccumulates (ops : List Instr) (s t : State) : Prop :=
  s.cfg.policy = .polled →
    t.frameReady = (s.frameReady || ((lastPrimary ops).isSome || (lastSecondary ops).isSome))

theorem flagAccumulates_nil (s : State) : FlagAccumulates [] s s :=
  fun _ => (Bool.or_false _).symm

theorem storePayload_frameReady {base : Nat} (hp : s.cfg.policy = .polled) :
    (storePayload base bytes s).frameReady = true := by
  rw [storePayload_polled hp]; rfl

theorem afterTransfer_frameReady (hp : s.cfg.policy = .polled) :
    (afterTransfer bytes s).frameReady =
      (s.frameReady || ((primaryOf (selectTransfer bytes.length bytes)).isSome ||
        (secondaryOf (selectTransfer bytes.length bytes)).isSome)) := by
  rcases length_shapes bytes with h22 | h8 | ⟨h22, h8⟩
  · rw [selectTransfer_primary h22, afterTransfer_primary h22, storePayload_frameReady hp]
    exact (Bool.or_true _).symm
  · rw [selectTransfer_secondary h8, afterTransfer_secondary h8, storePayload_frameReady hp]
    exact (Bool.or_true _).symm
  · rw [selectTransfer_ignored h22 h8, afterTransfer_ignored h22 h8]
    exact (Bool.or_false _).symm

theorem flagAccumulates_cons (bytes : List Byte) (is : List Instr) (s t : State)
    (h : FlagAccumulates is (afterTransfer bytes s) t) :
    FlagAccumulates (selectTransfer bytes.length bytes :: is) s t := by
  intro hp
  rw [h (by rw [afterTransfer_cfg, hp]), afterTransfer_frameReady hp, lastPrimary_cons,
    lastSecondary_cons, Option.isSome_or, Option.isSome_or]
  ac_rfl

/-- Settles O16, by the same induction: the flag is the disjunction over the sequence. -/
theorem frameReadySaysATransferCompleted : Obligations.FrameReadySaysATransferCompleted := by
  intro ops s hq hready hp hops
  obtain ⟨t, hrun, _, hflag⟩ :=
    execAll_transfers flagAccumulates_nil flagAccumulates_cons ops s hq hops
  refine ⟨t, hrun, ?_⟩
  rw [hflag hp, hready, Bool.false_or, Bool.or_eq_true]

/-! ## Transfers with INTERPRET between them -/

@[simp] theorem interpretNow_rf : (interpretNow s).rf o = s.rf o := rfl

@[simp] theorem interpretNow_ds :
    (interpretNow s).ds = some (interpretFn s.cfg.tables (snapshot s.frame)) := rfl

theorem storePayload_rxActive {base : Nat} : (storePayload base bytes s).rxActive = s.rxActive :=
  (storePayload_registers base bytes s).2.1

theorem storePayload_cfg {base : Nat} : (storePayload base bytes s).cfg = s.cfg :=
  (storePayload_registers base bytes s).2.2.1

/-- Under the Polled policy INTERPRET is enabled after a recognised transfer. -/
theorem exec_interpret_storePayload {base : Nat} (hq : s.rxActive = false)
    (hp : s.cfg.policy = .polled) :
    exec .interpret (storePayload base bytes s) =
      .next (interpretNow (storePayload base bytes s)) :=
  exec_interpret (storePayload_frameReady hp) (storePayload_rxActive.trans hq)

/-- Settles O41: the last snapshot has offsets 0 to 2 from the Secondary and offsets 3 to 19 from
the second Primary. -/
theorem halfStaleSnapshotsHappen : Obligations.HalfStaleSnapshotsHappen := by
  intro s a b d hq hp ha hb hd
  let s₂ := storePayload 3 b (storePayload 0 a s)
  let s₄ := storePayload 3 d (interpretNow s₂)
  have hq₁ : (storePayload 0 a s).rxActive = false := storePayload_rxActive.trans hq
  have hp₁ : (storePayload 0 a s).cfg.policy = .polled := by rw [storePayload_cfg, hp]
  have hq₂ : s₂.rxActive = false := storePayload_rxActive.trans hq₁
  have hp₂ : s₂.cfg.policy = .polled := by rw [storePayload_cfg, hp₁]
  have hcfg : s₄.cfg = s.cfg := by
    rw [storePayload_cfg]
    exact storePayload_cfg.trans storePayload_cfg
  have hrun : execAll [.xferSec a, .xferPri b, .interpret, .xferPri d, .interpret] s =
      .next (interpretNow s₄) :=
    (execAll_cons _ (exec_xferSec hq ha)).trans <|
      (execAll_cons _ (exec_xferPri hq₁ hb)).trans <|
      (execAll_cons _ (exec_interpret_storePayload hq₁ hp₁)).trans <|
      (execAll_cons _ (exec_xferPri (s := interpretNow s₂) hq₂ hd)).trans <|
      execAll_cons [] (exec_interpret_storePayload (s := interpretNow s₂) hq₂ hp₂)
  refine ⟨interpretNow s₄, snapshot s₄.frame, hrun, ?display, fun o ho => ?stale,
    fun o ho => ?fresh⟩
  case display => rw [interpretNow_ds, hcfg]
  case stale =>
    have hkept : s₄.rf o = (storePayload 0 a s).rf o :=
      (storePayload_rf_of_not_received (.inl ho)).trans (storePayload_rf_of_not_received (.inl ho))
    rw [getElem_snapshot_offset, ← State.rf, hkept]
    exact storePayload_rf_of_received (by omega) (by omega) (by omega)
  case fresh =>
    rw [getElem_snapshot_offset, ← State.rf]
    exact storePayload_rf_of_received (by omega) (by omega) (by omega)

/-- Storing a payload again, with INTERPRET between, gives the bytes it gave (R65). -/
theorem storePayload_again_rf (base : Nat) (bytes : List Byte) (s : State) (o : Offset) :
    (storePayload base bytes (interpretNow (storePayload base bytes s))).rf o =
      (storePayload base bytes s).rf o := by
  rw [storePayload_rf, interpretNow_rf]
  split
  case isTrue hin => rw [storePayload_rf, if_pos hin]
  case isFalse => rfl

/-- Settles O42: the second transfer stores what the frame holds, so that the snapshot is the same.
-/
theorem reinterpretingAnUnchangedFrameRepeats :
    Obligations.ReinterpretingAnUnchangedFrameRepeats := by
  intro s a hq hp ha
  let t := interpretNow (storePayload 0 a s)
  have hrun : ∀ v : State, v.rxActive = false → v.cfg.policy = .polled →
      execAll [.xferSec a, .interpret] v = .next (interpretNow (storePayload 0 a v)) :=
    fun v hqv hpv => by
      rw [execAll_cons _ (exec_xferSec hqv ha),
        execAll_cons _ (exec_interpret_storePayload hqv hpv), execAll]
  have hqt : t.rxActive = false := storePayload_rxActive.trans hq
  have hcfg : t.cfg = s.cfg := storePayload_cfg
  have hrf : ∀ o, (storePayload 0 a t).rf o = (storePayload 0 a s).rf o :=
    storePayload_again_rf 0 a s
  refine ⟨t, interpretNow (storePayload 0 a t), hrun s hq hp, hrun t hqt (by rw [hcfg, hp]), ?_,
    rfl, hrf⟩
  rw [interpretNow_ds, interpretNow_ds, storePayload_cfg, storePayload_cfg, hcfg,
    snapshot_congr hrf]

end Sys2Proof.Proofs.Sequences
end

section
/-!
PROOFS. What one operation can change (10_state.md R21, R25, R30, R38; 44_frame_ready.md R70; R179):
each component of the state is followed once through the effects of `exec`, and the statements about
all operations come from that.
-/

namespace Sys2Proof.Proofs.Effects

open Sys2Proof.Machine
open Sys2Proof.Proofs.WholeTransfers
open Sys2Proof.Proofs.Operations
open Sys2Proof.Proofs.Transfers

variable {s t : State} {i : Instr}

theorem effect_cfg (h : Effect s i t) : t.cfg = s.cfg := by
  cases h with
  | primary bytes | secondary bytes => exact completeTransfer_cfg _
  | received b => exact afterByte_cfg b s
  | _ => rfl

/-- Settles O47: every effect keeps the configuration. -/
theorem noOperationChangesTheConfiguration : Obligations.NoOperationChangesTheConfiguration :=
  fun _ _ _ hexec => effect_cfg (exec_effect hexec)

/-- Settles O43: every effect but those of the four writers keeps the frame. -/
theorem onlyTransfersAndResetWriteTheFrame : Obligations.OnlyTransfersAndResetWriteTheFrame := by
  rintro i s t hexec ⟨o, hchanged⟩
  cases exec_effect hexec with
  | resetDone => exact .inl rfl
  | primary bytes => exact .inr (.inl ⟨bytes, rfl⟩)
  | secondary bytes => exact .inr (.inr (.inl ⟨bytes, rfl⟩))
  | received b => exact .inr (.inr (.inr ⟨b, rfl⟩))
  | _ => exact absurd rfl hchanged

/-- Settles O48: `rx_idx` is written by XFER_BEGIN, XFER_BYTE and RESET alone. -/
theorem receiveIndexIsClearedOrAdvanced : Obligations.ReceiveIndexIsClearedOrAdvanced := by
  intro i s t hexec
  cases exec_effect hexec with
  | resetDone => exact ⟨fun _ => rfl, nofun, nofun, fun hne => absurd rfl hne⟩
  | begun len => exact ⟨nofun, fun _ _ => rfl, nofun, fun _ hne => absurd rfl (hne len)⟩
  | received b =>
    exact ⟨nofun, nofun, fun _ _ => afterByte_rxIdx b s, fun _ _ hne => absurd rfl (hne b)⟩
  | primary bytes | secondary bytes =>
    exact ⟨nofun, nofun, nofun, fun _ _ _ => completeTransfer_rxIdx _⟩
  | returned _ r hpure =>
    refine ⟨?_, ?_, ?_, fun _ _ _ => rfl⟩
    · rintro rfl; cases hpure
    · rintro n rfl; cases hpure
    · rintro b rfl; cases hpure
  | _ => exact ⟨nofun, nofun, nofun, fun _ _ _ => rfl⟩

/-! ## The display -/

/-- `DS` and `ds_valid` as they were. -/
def DisplayKept (s t : State) : Prop := t.ds = s.ds ∧ t.dsValid = s.dsValid

/-- `DS` holds the interpretation of the whole frame, and no transfer is in progress. -/
def DisplayFresh (t : State) : Prop :=
  t.rxActive = false ∧ t.ds = some (interpretFn t.cfg.tables (snapshot t.frame))

/-- The end of a recognised transfer writes the display under the Immediate policy alone. -/
theorem completeTransfer_display (hq : s.rxActive = false) :
    DisplayKept s (completeTransfer s) ∨
      s.cfg.policy = .immediate ∧ DisplayFresh (completeTransfer s) := by
  cases hpolicy : s.cfg.policy with
  | polled =>
    rw [completeTransfer_polled hpolicy]
    exact .inl ⟨rfl, rfl⟩
  | immediate =>
    rw [completeTransfer_immediate hpolicy]
    exact .inr ⟨rfl, hq, rfl⟩

/-- What an effect does to the display: nothing, or RESET clears it, or INTERPRET, itself or fused
to a transfer, writes it. -/
theorem effect_display (h : Effect s i t) :
    DisplayKept s t ∨ (i = .reset ∧ t.ds = none) ∨
      (i = .interpret ∨ s.cfg.policy = .immediate) ∧ DisplayFresh t := by
  have hcomplete : ∀ u : State, u.rxActive = false → u.cfg = s.cfg → DisplayKept s u →
      DisplayKept s (completeTransfer u) ∨ (i = .reset ∧ (completeTransfer u).ds = none) ∨
        (i = .interpret ∨ s.cfg.policy = .immediate) ∧ DisplayFresh (completeTransfer u) := by
    intro u hq hcfg ⟨hds, hvalid⟩
    rcases completeTransfer_display hq with ⟨hds', hvalid'⟩ | ⟨hp, hfresh⟩
    · exact .inl ⟨hds'.trans hds, hvalid'.trans hvalid⟩
    · exact .inr (.inr ⟨.inr (hcfg ▸ hp), hfresh⟩)
  cases h with
  | primary bytes hq | secondary bytes hq => exact hcomplete _ hq rfl ⟨rfl, rfl⟩
  | received b =>
    by_cases hend : s.rxIdx + 1 = s.rxLen ∧ (s.rxLen = 22 ∨ s.rxLen = 8)
    · rw [afterByte_completes b hend.1 (recognised_eq_true_iff.2 hend.2)]
      exact hcomplete _ rfl rfl ⟨rfl, rfl⟩
    · exact .inl (afterByte_keeps_display hend).2
  | interpreted _ hq => exact .inr (.inr ⟨.inl rfl, hq, rfl⟩)
  | resetDone => exact .inr (.inl ⟨rfl, rfl⟩)
  | _ => exact .inl ⟨rfl, rfl⟩

/-- Settles O45: an effect that does not keep the display clears it or makes it fresh. -/
theorem displayIsAlwaysOneWholeSnapshot : Obligations.DisplayIsAlwaysOneWholeSnapshot := by
  intro i s t hexec hchanged
  rcases effect_display (exec_effect hexec) with ⟨hds, _⟩ | hreset | ⟨_, hfresh⟩
  · exact absurd hds hchanged
  · exact .inl hreset
  · exact .inr hfresh

/-- Settles O46: the fused INTERPRET does not occur under the Polled policy. -/
theorem onlyInterpretOrResetWritesTheDisplay :
    Obligations.OnlyInterpretOrResetWritesTheDisplay := by
  intro i s t hp hexec hchanged
  rcases effect_display (exec_effect hexec) with ⟨hds, hvalid⟩ | ⟨hreset, _⟩ | ⟨hinterpret | hp', _⟩
  · exact absurd hchanged (not_or.2 ⟨not_not_intro hds, not_not_intro hvalid⟩)
  · exact .inr hreset
  · exact .inl hinterpret
  · rw [hp] at hp'; cases hp'

/-! ## The flag -/

/-- Under the Polled policy the flag, once raised, is lowered by INTERPRET, RESET and FRDY.CLR
alone. -/
theorem effect_keeps_raised (h : Effect s i t) (hp : s.cfg.policy = .polled)
    (hready : s.frameReady = true) :
    t.frameReady = true ∨ i = .interpret ∨ i = .reset ∨ i = .frdyClr := by
  cases h with
  | primary bytes | secondary bytes => exact .inl (by rw [storePayload_polled hp]; rfl)
  | received b =>
    by_cases hend : s.rxIdx + 1 = s.rxLen ∧ (s.rxLen = 22 ∨ s.rxLen = 8)
    · exact .inl (afterByte_completes_polled hend.1 hend.2 hp).1
    · exact .inl ((afterByte_keeps_display hend).1.trans hready)
  | interpreted => exact .inr (.inl rfl)
  | resetDone => exact .inr (.inr (.inl rfl))
  | lowered => exact .inr (.inr (.inr rfl))
  | raised => exact .inl rfl
  | _ => exact .inl hready

/-- Settles O17: the step's operation lowers the flag, and a step takes no FRDY.CLR. -/
theorem onlyInterpretOrResetLowersFrameReady :
    Obligations.OnlyInterpretOrResetLowersFrameReady := by
  intro s t hp hstep hready hlowered
  rcases step_effect hstep with ⟨_, rfl⟩ | ⟨st, rest, i, hinputs, hdecode, hevent, heffect⟩
  · rw [hready] at hlowered; cases hlowered
  · refine ⟨st, rest, hinputs, ?_⟩
    rcases effect_keeps_raised heffect hp hready with hraised | rfl | rfl | rfl
    · rw [hlowered] at hraised; cases hraised
    · exact .inl hdecode
    · exact .inr hdecode
    · cases hevent

/-! ## Completion -/

theorem transfer_completes_or_inProgress (s : State) (h : isTransfer i = true) :
    (∃ t, exec i s = .next t) ∨ s.rxActive = true := by
  obtain ⟨bytes, rfl⟩ := exists_of_isTransfer h
  cases hactive : s.rxActive with
  | false => exact .inl ⟨_, exec_selectTransfer hactive⟩
  | true => exact .inr rfl

/-- A code-point row completes on the bytes it matches. -/
theorem framebitRow_completes {m : String} {mask pattern v : Byte} (r : OpResult) (s : State)
    (h : v &&& mask = pattern) : framebitRow m mask pattern v r s = .next (s.setResult r) :=
  framebitRow_next.2 ⟨h, rfl⟩

/-- Settles O49: each guard that can fail on a well-formed operation is one of R129. -/
theorem wellFormedOperationsAlwaysComplete : Obligations.WellFormedOperationsAlwaysComplete := by
  intro i s hwf
  have htransfer : isTransfer i = true → (∃ t, exec i s = .next t) ∨
      (s.rxActive = true ∧ (isTransfer i = true ∨ ∃ n, i = .xferBegin n)) ∨
      (s.rxActive = false ∧ ∃ b, i = .xferByte b) := fun h =>
    (transfer_completes_or_inProgress s h).imp_right fun hactive => .inl ⟨hactive, .inl h⟩
  cases i with
  | xferPri | xferSec | xferIgn => exact htransfer hwf
  | xferBegin len =>
    cases hactive : s.rxActive with
    | false => exact .inl ⟨_, exec_xferBegin hactive⟩
    | true => exact .inr (.inl ⟨rfl, .inr ⟨len, rfl⟩⟩)
  | xferByte b =>
    cases hactive : s.rxActive with
    | false => exact .inr (.inr ⟨rfl, b, rfl⟩)
    | true => exact .inl ⟨_, exec_xferByte hactive⟩
  | interpret =>
    by_cases henabled : s.frameReady = true ∧ s.rxActive = false
    · exact .inl ⟨_, exec_interpret henabled.1 henabled.2⟩
    · exact .inl ⟨_, exec_interpret_notEnabled henabled⟩
  | signPos v | signNeg v | signNone v | annunRem v =>
    exact .inl ⟨_, framebitRow_completes _ s (of_decide_eq_true hwf)⟩
  | _ => exact .inl ⟨_, rfl⟩

end Sys2Proof.Proofs.Effects
end

section
/-!
PROOFS. The two policies (43_interpreter_bitfields.md R179): what the fused INTERPRET leaves, and
that an operation under the Immediate policy is the Polled one followed by INTERPRET where a
recognised transfer completes.
-/

namespace Sys2Proof.Proofs.Policies

open Sys2Proof.Machine
open Sys2Proof.Proofs.WholeTransfers
open Sys2Proof.Proofs.Operations
open Sys2Proof.Proofs.Sequences

variable {s t : State} {i : Instr}

theorem completesRecognised_xferByte {b : Byte} :
    completesRecognised (.xferByte b) s = true ↔
      recognised s.rxLen = true ∧ s.rxIdx + 1 = s.rxLen := by
  simp [completesRecognised]

/-- No pure operation completes a transfer. -/
theorem completesRecognised_of_isPure (h : isPure i = true) : completesRecognised i s = false := by
  cases i with
  | xferPri | xferSec | xferIgn | xferBegin | xferByte | interpret | reset | frdySet | frdyClr =>
    cases h
  | _ => rfl

/-- An operation that completes a recognised transfer ends with what R190 and R179 attach to it. -/
theorem effect_completes (h : Effect s i t) (hcompletes : completesRecognised i s = true) :
    ∃ u, t = completeTransfer u ∧ u.cfg = s.cfg := by
  cases h with
  | primary bytes | secondary bytes => exact ⟨_, rfl, rfl⟩
  | received b =>
    obtain ⟨hrec, hlast⟩ := completesRecognised_xferByte.1 hcompletes
    exact ⟨_, afterByte_completes b hlast hrec, rfl⟩
  | returned _ r hpure => rw [completesRecognised_of_isPure hpure] at hcompletes; cases hcompletes
  | _ => cases hcompletes

/-- Settles O14: under the Immediate policy `completeTransfer` is the fused pair. -/
theorem immediateTransfersInterpretAtOnce : Obligations.ImmediateTransfersInterpretAtOnce := by
  intro i s t hp hcompletes hexec
  obtain ⟨u, rfl, hcfg⟩ := effect_completes (exec_effect hexec) hcompletes
  rw [completeTransfer_immediate (by rw [hcfg, hp]), ← hcfg]
  exact ⟨rfl, rfl, rfl⟩

/-- A pure operation does not look at the policy. -/
theorem exec_withPolicy_of_isPure (p : InterpPolicy) (hpure : isPure i = true)
    (hexec : exec i s = .next t) : exec i (s.withPolicy p) = .next (t.withPolicy p) := by
  cases i with
  | signPos v | signNeg v | signNone v | annunRem v =>
    obtain ⟨hmatch, rfl⟩ := framebitRow_next.1 hexec
    exact framebitRow_next.2 ⟨hmatch, rfl⟩
  | xferPri | xferSec | xferIgn | xferBegin | xferByte | interpret | reset | frdySet | frdyClr =>
    cases hpure
  | _ => cases hexec; rfl

/-- INTERPRET on a Polled completion gives the Immediate one, in a quiescent state. -/
theorem exec_interpret_completeTransfer (hp : s.cfg.policy = .immediate) (hq : s.rxActive = false) :
    exec .interpret (completeTransfer (s.withPolicy .polled)) =
      .next ((completeTransfer s).withPolicy .polled) := by
  rw [completeTransfer_polled (s := s.withPolicy .polled) rfl, completeTransfer_immediate hp]
  exact exec_interpret rfl hq

/-- A Polled run of an operation that completes a recognised transfer, then INTERPRET. -/
theorem execAll_completing {u : State} (hcompletes : completesRecognised i s = true)
    (hp : u.cfg.policy = .immediate) (hq : u.rxActive = false)
    (hexec : exec i (s.withPolicy .polled) = .next (completeTransfer (u.withPolicy .polled))) :
    execAll (i :: if completesRecognised i s then [.interpret] else []) (s.withPolicy .polled) =
      .next ((completeTransfer u).withPolicy .polled) := by
  rw [if_pos hcompletes, execAll_cons _ hexec,
    execAll_cons _ (exec_interpret_completeTransfer hp hq), execAll]

/-- A Polled run of any other operation. -/
theorem execAll_not_completing (hcompletes : completesRecognised i s = false)
    (hexec : exec i (s.withPolicy .polled) = .next (t.withPolicy .polled)) :
    execAll (i :: if completesRecognised i s then [.interpret] else []) (s.withPolicy .polled) =
      .next (t.withPolicy .polled) := by
  rw [if_neg (ne_true_of_eq_false hcompletes), execAll_cons _ hexec, execAll]

/-- Settles O50, over the effects of `exec`: only those that complete a recognised transfer look at
the policy. -/
theorem immediateRunsArePolledRuns : Obligations.ImmediateRunsArePolledRuns := by
  intro i s t hp hexec
  cases exec_effect hexec with
  | primary bytes hq hlen =>
    exact execAll_completing (u := s.setFrame _) rfl hp hq (exec_xferPri hq hlen)
  | secondary bytes hq hlen =>
    exact execAll_completing (u := s.setFrame _) rfl hp hq (exec_xferSec hq hlen)
  | received b hactive =>
    have hrun := exec_xferByte (s := s.withPolicy .polled) (b := b) hactive
    by_cases hlast : s.rxIdx + 1 = s.rxLen
    · cases hrec : recognised s.rxLen with
      | true =>
        rw [afterByte_completes b hlast hrec]
        rw [afterByte_completes (s := s.withPolicy .polled) b hlast hrec] at hrun
        exact execAll_completing (completesRecognised_xferByte.2 ⟨hrec, hlast⟩) hp rfl hrun
      | false =>
        rw [afterByte_ignored b hlast hrec]
        rw [afterByte_ignored (s := s.withPolicy .polled) b hlast hrec] at hrun
        exact execAll_not_completing (by simp [completesRecognised, hrec]) hrun
    · rw [afterByte_mid b hlast]
      rw [afterByte_mid (s := s.withPolicy .polled) b hlast] at hrun
      exact execAll_not_completing (by simp [completesRecognised, hlast]) hrun
  | returned _ r hpure =>
    exact execAll_not_completing (completesRecognised_of_isPure hpure)
      (exec_withPolicy_of_isPure .polled hpure hexec)
  | ignored len bytes hrec hq hlen =>
    obtain ⟨h22, h8⟩ := recognised_eq_false_iff.1 hrec
    exact execAll_not_completing rfl (exec_xferIgn hq h22 h8 hlen)
  | notEnabled h =>
    have hguard : ¬(s.frameReady = true ∧ s.rxActive = false) := by
      rw [← interpretEnabled_iff, h]; exact Bool.false_ne_true
    exact execAll_not_completing rfl (exec_interpret_notEnabled hguard)
  | interpreted hready hq => exact execAll_not_completing rfl (exec_interpret hready hq)
  | begun len hq => exact execAll_not_completing rfl (exec_xferBegin hq)
  | resetDone => exact execAll_not_completing rfl rfl
  | raised => exact execAll_not_completing rfl rfl
  | lowered => exact execAll_not_completing rfl rfl

end Sys2Proof.Proofs.Policies
end

section
/-!
PROOFS. Steps and the invariant of the block (10_state.md R37, R48; 70_reset_and_hazards.md R222,
R233): what a step answers, that every effect of an event keeps `State.Inv`, and what follows for
every schedule.
-/

namespace Sys2Proof.Proofs.Invariant

open Sys2Proof.Machine
open Sys2Proof.Proofs.Operations
open Sys2Proof.Proofs.Transfers

variable {s t : State} {i : Instr}

/-! ## What a step answers -/

theorem bareEffect_eq_none (hset : i ≠ .frdySet) (hclr : i ≠ .frdyClr) : bareEffect i = none := by
  cases i with
  | frdySet => exact absurd rfl hset
  | frdyClr => exact absurd rfl hclr
  | _ => rfl

theorem step_idle (h : s.inputs = []) : step s = .next s := by
  simp [step, fetch, h]

theorem step_operation {st : Stimulus} {rest : List Stimulus} (h : s.inputs = st :: rest)
    (hdecode : decode st = .ok i) (hevent : bareEffect i = none) :
    step s = exec i (s.setInputs rest) := by
  simp [step, fetch, h, present, hdecode, hevent]

theorem step_undecodable {st : Stimulus} {rest : List Stimulus} {e : DecodeError}
    (h : s.inputs = st :: rest) (hdecode : decode st = .error e) :
    step s = .refused (.undecodable e) := by
  simp [step, fetch, h, present, hdecode]

/-- Settles O54: one equation of `step` for each thing that can be presented. -/
theorem stepRunsTheDecodedOperation : Obligations.StepRunsTheDecodedOperation := fun _ _ _ =>
  ⟨step_idle,
    fun h _ hdecode hset hclr => step_operation h hdecode (bareEffect_eq_none hset hclr),
    fun h _ hdecode => step_undecodable h hdecode⟩

/-! ## The invariant -/

/-- The end of a recognised transfer meets the conditions on the flag and the display whatever was
stored: under the Polled policy the flag is up, under the Immediate one the display is new. -/
theorem inv_completeTransfer (hframe : s.frame.wf) (htables : s.cfg.tables.WellFormed)
    (hrx : s.RxOk) (hdisplay : s.DisplayOk) : (completeTransfer s).Inv := by
  cases hpolicy : s.cfg.policy with
  | polled =>
    rw [completeTransfer_polled hpolicy]
    refine ⟨hframe, htables, hrx, hdisplay, fun _ hready => ?_, fun himmediate => ?_⟩
    · cases hready
    · rw [State.setFrameReady_cfg, hpolicy] at himmediate; cases himmediate
  | immediate =>
    rw [completeTransfer_immediate hpolicy]
    exact ⟨hframe, htables, hrx, rfl, fun _ _ _ => rfl, fun _ => rfl⟩

/-- A recognised transfer's bytes all fall inside the frame. -/
theorem inv_storePayload {base : Nat} {bytes : List Byte} (hinv : s.Inv)
    (hroom : base + (bytes.length - 5) ≤ 20) : (storePayload base bytes s).Inv := by
  obtain ⟨hframe, htables, hrx, hdisplay, _, _⟩ := hinv
  exact inv_completeTransfer (s := s.setFrame _)
    (wf_storeFrom (by rw [List.length_drop]; exact hroom) hframe) htables hrx hdisplay

/-- A byte that does not complete a recognised transfer: in an ignored transfer it changes no byte
of the frame, in a recognised one the display need not be current. -/
theorem current_of_received {b : Byte} {active : Bool} (hcurrent : s.Current)
    (hign : active = false → recognised s.rxLen = false) :
    ((s.setFrame (receiveByte b s)).setRx s.rxLen (s.rxIdx + 1) active).Current := by
  intro hvalid hready hoff
  have hrec : recognised s.rxLen = false := by
    cases active with
    | false => exact hign rfl
    | true => exact hoff rfl
  obtain ⟨h22, h8⟩ := recognised_eq_false_iff.1 hrec
  have hkept : receiveByte b s = s.frame := receiveByte_ignored h22 h8
  rw [State.setRx_ds, State.setRx_frame, State.setFrame_frame, hkept]
  exact hcurrent hvalid hready fun _ => hrec

theorem inv_afterByte (b : Byte) (hactive : s.rxActive = true) (hinv : s.Inv) :
    (afterByte b s).Inv := by
  obtain ⟨hframe, htables, hrx, hdisplay, hcurrent, himmediate⟩ := hinv
  have hframe' : (receiveByte b s).wf := wf_receiveByte b s hframe
  have hlt : s.rxIdx < s.rxLen := hrx hactive
  by_cases hlast : s.rxIdx + 1 = s.rxLen
  · cases hrec : recognised s.rxLen with
    | true =>
      rw [afterByte_completes b hlast hrec]
      exact inv_completeTransfer hframe' htables nofun hdisplay
    | false =>
      rw [afterByte_ignored b hlast hrec]
      exact ⟨hframe', htables, nofun, hdisplay,
        current_of_received hcurrent fun _ => hrec, himmediate⟩
  · rw [afterByte_mid b hlast]
    have hroom : s.rxIdx + 1 < s.rxLen := by omega
    exact ⟨hframe', htables, fun _ => hroom, hdisplay,
      current_of_received hcurrent nofun, himmediate⟩

theorem inv_afterReset (hinv : s.Inv) : (afterReset s).Inv := by
  obtain ⟨_, htables, _, _, _, _⟩ := hinv
  have hframe : (afterReset s).frame.wf := wf_storeFrom (by simp) wf_nil
  exact ⟨hframe, htables, nofun, rfl, nofun, fun _ => rfl⟩

/-- Every effect of an event keeps the invariant. The bare effects are no events, and do not. -/
theorem inv_of_effect (h : Effect s i t) (hevent : bareEffect i = none) (hinv : s.Inv) : t.Inv := by
  cases h with
  | ignored => exact hinv
  | notEnabled => exact hinv
  | returned => exact hinv
  | primary bytes _ hlen => exact inv_storePayload hinv (by omega)
  | secondary bytes _ hlen => exact inv_storePayload hinv (by omega)
  | begun len hq =>
    obtain ⟨hframe, htables, _, hdisplay, hcurrent, himmediate⟩ := hinv
    have hquiet : s.rxActive = true → recognised s.rxLen = false := fun hactive =>
      absurd hactive (ne_true_of_eq_false hq)
    exact ⟨hframe, htables, fun hactive => of_decide_eq_true hactive, hdisplay,
      fun hvalid hready _ => hcurrent hvalid hready hquiet, himmediate⟩
  | received b hactive => exact inv_afterByte b hactive hinv
  | interpreted =>
    obtain ⟨hframe, htables, hrx, _, _, _⟩ := hinv
    exact ⟨hframe, htables, hrx, rfl, fun _ _ _ => rfl, fun _ => rfl⟩
  | resetDone => exact inv_afterReset hinv
  | raised => cases hevent
  | lowered => cases hevent

/-- Settles O51: the initial frame is empty, the tables are the instrument's, which are well formed.
-/
theorem initialStateMeetsTheInvariant : Obligations.InitialStateMeetsTheInvariant :=
  ⟨wf_nil, Config.instrument.good, nofun, rfl, nofun, fun _ => rfl⟩

/-- Settles O52: a step is idle or the effect of an event; taking the stimulus changes no condition.
-/
theorem everyStepKeepsTheInvariant : Obligations.EveryStepKeepsTheInvariant := by
  intro s t hinv hstep
  rcases step_effect hstep with ⟨_, rfl⟩ | ⟨st, rest, i, _, _, hevent, heffect⟩
  · exact hinv
  · exact inv_of_effect heffect hevent hinv

/-- A run of one step more begins with a step. -/
theorem run_succ_inv {M : Host.Core} {k : Nat} {s t : M.State} (hrun : M.run (k + 1) s = .next t) :
    ∃ u, M.step s = .next u ∧ M.run k u = .next t := by
  unfold Host.Core.run at hrun
  split at hrun
  next u hstep => exact ⟨u, hstep, hrun⟩
  next => cases hrun
  next => cases hrun

/-- The invariant holds after any number of steps, with any inputs. -/
theorem run_keeps_inv (k : Nat) (s t : State) (hinv : s.Inv)
    (hrun : Host.Core.run Sys2Proof.core k s = .next t) : t.Inv := by
  induction k generalizing s with
  | zero => cases hrun; exact hinv
  | succ k ih =>
    obtain ⟨u, hstep, hrest⟩ := run_succ_inv (M := Sys2Proof.core) hrun
    exact ih u (everyStepKeepsTheInvariant s u hinv hstep) hrest

/-- Settles O53: in a settled state the condition `State.Current` of the invariant has no premise
left but `ds_valid`. -/
theorem settledDisplayIsCurrentOnEverySchedule :
    Obligations.SettledDisplayIsCurrentOnEverySchedule := by
  intro k s t hinv hrun ⟨hq, hready⟩ hvalid
  obtain ⟨_, _, _, _, hcurrent, _⟩ := run_keeps_inv k s t hinv hrun
  exact hcurrent hvalid hready fun hactive => absurd hactive (ne_true_of_eq_false hq)

end Sys2Proof.Proofs.Invariant
end

section
/-!
PROOFS. Decoding and encoding (30_encoding.md sections 1 to 5). `Laws.RoundTrip` has the one
direction, an operation at a time; here is the other: each format's decoder answers an operation
only on the stimulus that encodes it.
-/

namespace Sys2Proof.Proofs.Encoding

open Sys2Proof.Proofs.Transfers

variable {st : Stimulus} {i : Instr}

/-! ## Well-formed operations decode -/

/-- The round trips of `Laws.RoundTrip`, put together. -/
theorem decode_encode (i : Instr) (h : i.wellFormed = true) : decode (encode i) = .ok i := by
  cases i with
  | xferPri bytes => exact Laws.RoundTrip.xferPri bytes h
  | xferSec bytes => exact Laws.RoundTrip.xferSec bytes h
  | xferIgn len bytes => exact Laws.RoundTrip.xferIgn len bytes h
  | xferBegin len => exact Laws.RoundTrip.xferBegin len h
  | xferByte b => exact Laws.RoundTrip.xferByte b h
  | interpret => exact Laws.RoundTrip.interpret h
  | reset => exact Laws.RoundTrip.reset h
  | frdySet => exact Laws.RoundTrip.frdySet h
  | frdyClr => exact Laws.RoundTrip.frdyClr h
  | segdec key => exact Laws.RoundTrip.segdec key h
  | glydecU code => exact Laws.RoundTrip.glydecU code h
  | glydecP code => exact Laws.RoundTrip.glydecP code h
  | bittest f offset mask => exact Laws.RoundTrip.bittest f offset mask h
  | annun f => exact Laws.RoundTrip.annun f h
  | bar f => exact Laws.RoundTrip.bar f h
  | digits f => exact Laws.RoundTrip.digits f h
  | dpoints f => exact Laws.RoundTrip.dpoints f h
  | sign f => exact Laws.RoundTrip.sign f h
  | unit f => exact Laws.RoundTrip.unit f h
  | prefixGlyph f => exact Laws.RoundTrip.prefixGlyph f h
  | signPos v => exact Laws.RoundTrip.signPos v h
  | signNeg v => exact Laws.RoundTrip.signNeg v h
  | signNone v => exact Laws.RoundTrip.signNone v h
  | annunRem v => exact Laws.RoundTrip.annunRem v h
  | unitV => exact Laws.RoundTrip.unitV h
  | unitOmega => exact Laws.RoundTrip.unitOmega h
  | unitUnknown code => exact Laws.RoundTrip.unitUnknown code h
  | prefixUnknown code => exact Laws.RoundTrip.prefixUnknown code h
  | segdecUnknown key => exact Laws.RoundTrip.segdecUnknown key h

/-! ## What each format's decoder accepts -/

theorem decodeBare_inv {j : Instr} (h : decodeBare st j = .ok i) :
    st = ⟨st.sel, 0, []⟩ ∧ j = i := by
  obtain ⟨sel, word, bytes⟩ := st
  unfold decodeBare at h
  split at h
  case isTrue hnone =>
    obtain ⟨rfl, rfl⟩ := hnone
    exact ⟨rfl, Except.ok.inj h⟩
  case isFalse => cases h

theorem decodeLength_inv {k : Nat → Instr} (h : decodeLength st k = .ok i) :
    ∃ n, st = ⟨st.sel, n, []⟩ ∧ k n = i := by
  obtain ⟨sel, word, bytes⟩ := st
  unfold decodeLength at h
  split at h
  case isTrue hbytes =>
    obtain rfl := hbytes
    exact ⟨word, rfl, Except.ok.inj h⟩
  case isFalse => cases h

theorem decodeByte_inv {k : Byte → Except DecodeError Instr} (h : decodeByte st k = .ok i) :
    ∃ v : Byte, st = ⟨st.sel, v.toNat, []⟩ ∧ k v = .ok i := by
  obtain ⟨sel, word, bytes⟩ := st
  unfold decodeByte at h
  split at h
  case isTrue hword =>
    obtain ⟨hlt, rfl⟩ := hword
    have hnat : (BitVec.ofNat 8 word).toNat = word := by
      rw [BitVec.toNat_ofNat, Nat.mod_eq_of_lt hlt]
    exact ⟨_, by rw [hnat], h⟩
  case isFalse => cases h

theorem decodeCode_inv {k : Code → Instr} (h : decodeCode st k = .ok i) :
    ∃ c : Code, st = ⟨st.sel, c.toNat, []⟩ ∧ k c = i := by
  obtain ⟨sel, word, bytes⟩ := st
  unfold decodeCode at h
  split at h
  case isTrue hword =>
    obtain ⟨hlt, rfl⟩ := hword
    have hnat : (BitVec.ofNat 16 word).toNat = word := by
      rw [BitVec.toNat_ofNat, Nat.mod_eq_of_lt hlt]
    exact ⟨_, by rw [hnat], Except.ok.inj h⟩
  case isFalse => cases h

theorem toSnapshot_inv {bytes : List Byte} {f : Snapshot} (h : toSnapshot bytes = some f) :
    bytes = f.toList := by
  unfold toSnapshot at h
  split at h
  case isTrue => cases h; rfl
  case isFalse => cases h

theorem decodeFrame_inv {k : Snapshot → Instr} (h : decodeFrame st k = .ok i) :
    ∃ f : Snapshot, st = ⟨st.sel, 0, f.toList⟩ ∧ k f = i := by
  obtain ⟨sel, word, bytes⟩ := st
  unfold decodeFrame at h
  split at h
  next f hf =>
    split at h
    case isTrue hword =>
      obtain rfl := hword
      obtain rfl := toSnapshot_inv hf
      exact ⟨f, rfl, Except.ok.inj h⟩
    case isFalse => cases h
  next => cases h

theorem decodeKey_inv {k : Byte → Instr} (h : decodeKey st k = .ok i) :
    ∃ v : Byte, st = ⟨st.sel, v.toNat, []⟩ ∧ v &&& 0x08#8 = 0#8 ∧ k v = i := by
  obtain ⟨v, hst, hk⟩ := decodeByte_inv h
  split at hk
  case isTrue hclear => exact ⟨v, hst, hclear, Except.ok.inj hk⟩
  case isFalse => cases hk

theorem decodeBittest_inv (h : decodeBittest st = .ok i) :
    ∃ (f : Snapshot) (o : Offset) (m : Byte),
      st = ⟨st.sel, 0, BitVec.ofNat 8 o.val :: m :: f.toList⟩ ∧ isSingleBit m = true ∧
        .bittest f o m = i := by
  obtain ⟨sel, word, bytes⟩ := st
  unfold decodeBittest at h
  split at h
  next o m rest hbytes =>
    split at h
    next f hf =>
      split at h
      case isTrue hword =>
        split at h
        case isTrue hpos =>
          obtain rfl := hword
          obtain rfl := toSnapshot_inv hf
          obtain rfl := hbytes
          exact ⟨f, ⟨o.toNat, hpos.1⟩, m, by simp [BitVec.ofNat_toNat], hpos.2, Except.ok.inj h⟩
        case isFalse => cases h
      case isFalse => cases h
    next => cases h
  next => cases h

/-! ## What a code-point format's rows are -/

theorem sign_rows_cover (v : Byte) (hpos : ¬v &&& 0x04#8 = 0x04#8) (hneg : ¬v &&& 0x44#8 = 0x40#8) :
    v &&& 0x44#8 = 0x00#8 := by
  revert v; decide

/-- The three sign rows share out all bytes (R171). -/
theorem decodeSignField_encodes (v : Byte) :
    (decodeSignField v).wellFormed = true ∧
      encode (decodeSignField v) = ⟨.frameSign, v.toNat, []⟩ := by
  unfold decodeSignField
  split
  case isTrue hpos => exact ⟨decide_eq_true hpos, rfl⟩
  case isFalse hpos =>
    split
    case isTrue hneg => exact ⟨decide_eq_true hneg, rfl⟩
    case isFalse hneg => exact ⟨decide_eq_true (sign_rows_cover v hpos hneg), rfl⟩

/-- The three unit rows share out all codes (R105). -/
theorem decodeUnitCode_encodes (c : Code) :
    (decodeUnitCode c).wellFormed = true ∧
      encode (decodeUnitCode c) = ⟨.glyphUnit, c.toNat, []⟩ := by
  unfold decodeUnitCode
  split
  case isTrue hvolt => rw [hvolt]; exact ⟨rfl, rfl⟩
  case isFalse hvolt =>
    split
    case isTrue homega => rw [homega]; exact ⟨rfl, rfl⟩
    case isFalse homega => exact ⟨decide_eq_true ⟨hvolt, homega⟩, rfl⟩

theorem decodeRemField_inv {v : Byte} (h : decodeRemField v = .ok i) :
    v &&& 0x02#8 = 0x02#8 ∧ .annunRem v = i := by
  unfold decodeRemField at h
  split at h
  case isTrue hrem => exact ⟨hrem, Except.ok.inj h⟩
  case isFalse => cases h

/-- The operation a length selects is well formed with its own bytes (R90, R103). -/
theorem selectTransfer_encodes (bytes : List Byte) :
    (selectTransfer bytes.length bytes).wellFormed = true ∧
      encode (selectTransfer bytes.length bytes) = ⟨.xfer, bytes.length, bytes⟩ := by
  rcases length_shapes bytes with h22 | h8 | ⟨h22, h8⟩
  · rw [selectTransfer_primary h22, h22]; exact ⟨decide_eq_true h22, rfl⟩
  · rw [selectTransfer_secondary h8, h8]; exact ⟨decide_eq_true h8, rfl⟩
  · rw [selectTransfer_ignored h22 h8]; exact ⟨decide_eq_true ⟨h22, h8, rfl⟩, rfl⟩

theorem decode_xfer_inv {word : Nat} {bytes : List Byte}
    (h : decode ⟨.xfer, word, bytes⟩ = .ok i) :
    bytes.length = word ∧ selectTransfer word bytes = i := by
  by_cases hlen : bytes.length = word
  · exact ⟨hlen, Except.ok.inj ((if_pos hlen).symm.trans h)⟩
  · cases (if_neg hlen).symm.trans h

/-- A stimulus that decodes is the encoding of what it decodes to, which is well formed. -/
theorem encode_of_decode (h : decode st = .ok i) : i.wellFormed = true ∧ encode i = st := by
  obtain ⟨sel, word, bytes⟩ := st
  cases sel with
  | xfer =>
    obtain ⟨rfl, rfl⟩ := decode_xfer_inv h
    exact selectTransfer_encodes bytes
  | xferBegin =>
    obtain ⟨n, hst, rfl⟩ := decodeLength_inv h
    exact ⟨rfl, hst.symm⟩
  | xferByte =>
    obtain ⟨b, hst, hb⟩ := decodeByte_inv (k := fun b => .ok (.xferByte b)) h
    cases hb
    exact ⟨rfl, hst.symm⟩
  | interpret | reset | frdySet | frdyClr =>
    obtain ⟨hst, rfl⟩ := decodeBare_inv h
    exact ⟨rfl, hst.symm⟩
  | segdec | segKey =>
    obtain ⟨key, hst, hclear, rfl⟩ := decodeKey_inv h
    exact ⟨decide_eq_true hclear, hst.symm⟩
  | glydecU | glydecP | glyphPrefix =>
    obtain ⟨code, hst, rfl⟩ := decodeCode_inv h
    exact ⟨rfl, hst.symm⟩
  | bittest =>
    obtain ⟨f, o, m, hst, hmask, rfl⟩ := decodeBittest_inv h
    exact ⟨hmask, hst.symm⟩
  | annun | bar | digits | dpoints | sign | unit | prefixGlyph =>
    obtain ⟨f, hst, rfl⟩ := decodeFrame_inv h
    exact ⟨rfl, hst.symm⟩
  | frameSign =>
    obtain ⟨v, hst, hv⟩ := decodeByte_inv (k := fun v => .ok (decodeSignField v)) h
    cases hv
    rw [hst]
    exact decodeSignField_encodes v
  | frameRem =>
    obtain ⟨v, hst, hv⟩ := decodeByte_inv h
    obtain ⟨hrem, rfl⟩ := decodeRemField_inv hv
    exact ⟨decide_eq_true hrem, hst.symm⟩
  | glyphUnit =>
    obtain ⟨code, hst, rfl⟩ := decodeCode_inv h
    rw [hst]
    exact decodeUnitCode_encodes code

/-- Settles O55: the two directions. -/
theorem decodeAndEncodeAgree : Obligations.DecodeAndEncodeAgree := by
  intro st i
  constructor
  · exact encode_of_decode
  · rintro ⟨hwf, rfl⟩
    exact decode_encode i hwf

/-- Settles O56: the decoder computes on each word. -/
theorem sampleWordsDecode : Obligations.SampleWordsDecode :=
  ⟨rfl, rfl, rfl, rfl, rfl, rfl, rfl, rfl, rfl, rfl⟩

end Sys2Proof.Proofs.Encoding
end

section
/-!
PROOFS. What the default rows and the code points answer (30_encoding.md R105, R107), and that a
segment key is masked before it is looked up (41_segment_decoder.md R140).
-/

namespace Sys2Proof.Proofs.CodePoints

open Sys2Proof.Machine
open Sys2Proof.Proofs.SegmentDecoder
open Sys2Proof.Proofs.GlyphDecoders

variable {s : State} {v : Byte}

/-- A sub-operation's answer, with the field it writes spelled out. -/
theorem answer_eq (r : OpResult) (s : State) : answer r s = .next { s with result := some r } := rfl

/-- Settles O22: the two fixed rows answer their constants, the default rows the decoders' defaults.
-/
theorem codePointRowsGiveTheirResults : Obligations.CodePointRowsGiveTheirResults := by
  refine fun s => ⟨rfl, rfl, fun code hnot => ?unit, fun code hnot => ?pref,
    fun key hkey hnot => ?seg⟩
  case unit => rw [← answer_eq, ← unitResult_of_not_mem hnot]; rfl
  case pref => rw [← answer_eq, ← prefixResult_of_not_mem hnot]; rfl
  case seg => rw [← answer_eq, ← segmentChar_of_not_mem hkey hnot]; rfl

/-- Masking a byte to its segment key does not change its character. -/
theorem segmentChar_segmentKey (t : Tables) (v : Byte) :
    segmentChar t (segmentKey v) = segmentChar t v := by
  rw [segmentChar, segmentKey_segmentKey, segmentChar]

/-- Settles O23: SEGDEC answers `segmentChar` of its operand. -/
theorem segmentDecoderIgnoresBitThree : Obligations.SegmentDecoderIgnoresBitThree := by
  intro s v
  show answer (.char (segmentChar s.cfg.tables v)) s =
    answer (.char (segmentChar s.cfg.tables (segmentKey v))) s
  rw [segmentChar_segmentKey]

/-- Settles O24: the default rows have the decoders' meanings. -/
theorem defaultRowsAgreeWithTheDecoders : Obligations.DefaultRowsAgreeWithTheDecoders :=
  fun _ _ _ => ⟨rfl, rfl, rfl⟩

/-! ## The rows of the byte at offset 16 -/

theorem bit1_set_iff (v : Byte) : v &&& 0x02#8 = 0x02#8 ↔ v.getLsbD 1 = true := by
  revert v; decide

theorem bit2_set_iff (v : Byte) : v &&& 0x04#8 = 0x04#8 ↔ v.getLsbD 2 = true := by
  revert v; decide

theorem bit2_clear_bit6_set_iff (v : Byte) :
    v &&& 0x44#8 = 0x40#8 ↔ v.getLsbD 2 = false ∧ v.getLsbD 6 = true := by
  revert v; decide

theorem bits2_6_clear_iff (v : Byte) :
    v &&& 0x44#8 = 0x00#8 ↔ v.getLsbD 2 = false ∧ v.getLsbD 6 = false := by
  revert v; decide

theorem framebitRow_match {m : String} {mask pattern : Byte} {r : OpResult}
    (h : v &&& mask = pattern) :
    framebitRow m mask pattern v r s = .next { s with result := some r } := if_pos h

theorem framebitRow_mismatch {m : String} {mask pattern : Byte} {r : OpResult}
    (h : ¬v &&& mask = pattern) :
    framebitRow m mask pattern v r s = .refused (.rowDoesNotMatch m) := if_neg h

/-- Settles O31: the match and mask of each row, by bit numbers, decide between its two outcomes. -/
theorem frameBitRowsGiveTheirResults : Obligations.FrameBitRowsGiveTheirResults := by
  refine fun s v => ⟨fun h => framebitRow_match ((bit2_set_iff v).2 h),
    fun h => framebitRow_mismatch fun hmatch => ?pos,
    fun h2 h6 => framebitRow_match ((bit2_clear_bit6_set_iff v).2 ⟨h2, h6⟩),
    fun h => framebitRow_mismatch fun hmatch => h ((bit2_clear_bit6_set_iff v).1 hmatch),
    fun h2 h6 => framebitRow_match ((bits2_6_clear_iff v).2 ⟨h2, h6⟩),
    fun h => framebitRow_mismatch fun hmatch => h ((bits2_6_clear_iff v).1 hmatch),
    fun h => framebitRow_match ((bit1_set_iff v).2 h),
    fun h => framebitRow_mismatch fun hmatch => ?rem⟩
  case pos => exact ne_true_of_eq_false h ((bit2_set_iff v).1 hmatch)
  case rem => exact ne_true_of_eq_false h ((bit1_set_iff v).1 hmatch)

end Sys2Proof.Proofs.CodePoints
end

section
/-!
PROOFS. What the fields of the display depend on (43_interpreter_bitfields.md R174 to R178): each
field is one function of a byte or two of the snapshot, and the statements about whole displays from
that.
-/

namespace Sys2Proof.Proofs.DisplayFields

open Sys2Proof.Machine
open Sys2Proof.Proofs.WholeTransfers
open Sys2Proof.Proofs.GlyphDecoders
open Sys2Proof.Proofs.BitFields

variable {t : Tables} {f g : Snapshot}

/-! ## Agreement of two snapshots, field by field -/

/-- A bit test sees the masked byte alone. -/
theorem bitTest_congr {o : Offset} {m : Byte} (h : f[o] &&& m = g[o] &&& m) :
    bitTest f o m = bitTest g o m := by
  simp only [bitTest, bit, h]

theorem digit_congr {i : Fin 7} {o : Offset} (ho : o.val = 15 - i.val)
    (h : f[o] &&& 0xF7#8 = g[o] &&& 0xF7#8) :
    (interpretFn t f).digits[i] = (interpretFn t g).digits[i] := by
  show (digitsOf t f)[i] = (digitsOf t g)[i]
  rw [digitsOf_get t f i o ho, digitsOf_get t g i o ho, h]

theorem sign_congr (h2 : f[16].getLsbD 2 = g[16].getLsbD 2)
    (h6 : f[16].getLsbD 6 = g[16].getLsbD 6) :
    (interpretFn t f).sign = (interpretFn t g).sign := by
  show signOf f = signOf g
  rw [signOf_bits, signOf_bits, h2, h6]

theorem unitGlyph_congr (h5 : f[5] = g[5]) (h6 : f[6] = g[6]) :
    (interpretFn t f).unitGlyph = (interpretFn t g).unitGlyph := by
  show unitOf t f = unitOf t g
  rw [unitOf, unitOf, h5, h6]

theorem prefixGlyph_congr (h3 : f[3] = g[3]) (h4 : f[4] = g[4]) :
    (interpretFn t f).prefixGlyph = (interpretFn t g).prefixGlyph := by
  show prefixOf t f = prefixOf t g
  rw [prefixOf, prefixOf, h3, h4]

theorem annunciator_congr {e : AnnunEntry} (hannun : t.AnnunOk) (he : e ∈ t.annun)
    (h : f[e.pos.offset] &&& e.pos.mask = g[e.pos.offset] &&& e.pos.mask) :
    annunciator (interpretFn t f) e.name = annunciator (interpretFn t g) e.name := by
  rw [annunciator_interpretFn f hannun he, annunciator_interpretFn g hannun he, bitTest_congr h]

/-- REM by its bit number. -/
theorem annunciator_rem_bit (hannun : t.AnnunOk) (f : Snapshot) :
    annunciator (interpretFn t f) .REM = some (f[16].getLsbD 1) := by
  have hbit : bitTest f 16 0x02#8 = f[16].getLsbD 1 := bitTest_singleMask f 16 (by decide) rfl
  rw [annunciator_rem f hannun, hbit]

theorem decimalPoint_eq (t : Tables) (f : Snapshot) (p : Fin 7) :
    (interpretFn t f).decimalPoints[p] = bitTest f t.dp[p].offset t.dp[p].mask :=
  pointsOf_get t f p

theorem bargraph_eq (t : Tables) (f : Snapshot) (j : Fin 17) :
    (interpretFn t f).bargraph[j] = bitTest f t.bar[j].offset t.bar[j].mask :=
  barOf_get t f j

/-- Settles O37: one congruence lemma for each field. -/
theorem eachFieldDependsOnItsOwnBits : Obligations.EachFieldDependsOnItsOwnBits := by
  intro t f g ⟨_, _, _, hannun, _, _⟩
  refine ⟨fun i o ho h => digit_congr ho h, sign_congr, unitGlyph_congr, prefixGlyph_congr,
    fun h => ?rem, fun e he h => annunciator_congr hannun he h, fun p h => ?point, fun j h => ?bar⟩
  case rem => rw [annunciator_rem_bit hannun, annunciator_rem_bit hannun, h]
  case point => rw [decimalPoint_eq, decimalPoint_eq, bitTest_congr h]
  case bar => rw [bargraph_eq, bargraph_eq, bitTest_congr h]

/-! ## The fields of a reading lie at offsets 3 to 16 -/

/-- Snapshots that agree from offset 3 on give the same reading: no field of it lies below (R176).
-/
theorem reading_congr (hwf : t.WellFormed) (h : ∀ o : Offset, 3 ≤ o.val → f[o] = g[o]) :
    let d := interpretFn t f
    let e := interpretFn t g
    d.digits = e.digits ∧ d.sign = e.sign ∧ d.unitGlyph = e.unitGlyph ∧
      d.prefixGlyph = e.prefixGlyph ∧ d.decimalPoints = e.decimalPoints ∧
      annunciator d .REM = annunciator e .REM := by
  obtain ⟨_, _, _, hannun, hdp, _⟩ := hwf
  have h16 : f[16] = g[16] := h 16 (by decide)
  refine ⟨?digits, sign_congr (by rw [h16]) (by rw [h16]),
    unitGlyph_congr (h 5 (by decide)) (h 6 (by decide)),
    prefixGlyph_congr (h 3 (by decide)) (h 4 (by decide)), ?points, ?rem⟩
  case digits =>
    refine Vector.ext fun i hi => digit_congr (i := ⟨i, hi⟩) (o := ⟨15 - i, by omega⟩) rfl ?_
    rw [h _ (by simp only []; omega)]
  case points =>
    refine Vector.ext fun p hp => ?_
    obtain ⟨hlow, _⟩ := hdp ⟨p, hp⟩
    have hbit := bitTest_congr (m := t.dp[(⟨p, hp⟩ : Fin 7)].mask)
      (congrArg (· &&& _) (h t.dp[(⟨p, hp⟩ : Fin 7)].offset (by omega)))
    exact (decimalPoint_eq t f ⟨p, hp⟩).trans (hbit.trans (decimalPoint_eq t g ⟨p, hp⟩).symm)
  case rem => rw [annunciator_rem_bit hannun, annunciator_rem_bit hannun, h16]

/-- Settles O38: a Secondary stores at offsets 0 to 2. -/
theorem secondaryLeavesTheReadingAlone : Obligations.SecondaryLeavesTheReadingAlone := by
  intro s t bytes hwf hexec
  obtain ⟨_, hlen, rfl⟩ := wholeTransfer_next.1 hexec
  have hcfg : (storePayload 0 bytes s).cfg = s.cfg := completeTransfer_cfg _
  rw [hcfg]
  refine reading_congr hwf fun o ho => ?_
  rw [getElem_snapshot_offset, getElem_snapshot_offset]
  exact storePayload_rf_of_not_received (.inr (by omega))

/-! ## Sentinel bytes -/

/-- A byte of ones has the bit of every single-bit mask set. -/
theorem bit_ones {m : Byte} (h : isSingleBit m = true) : bit 0xFF#8 m = true := by
  revert m; decide

theorem bitTest_ones {o : Offset} {m : Byte} (hm : isSingleBit m = true) (h : f[o] = 0xFF#8) :
    bitTest f o m = true := by
  rw [bitTest, h, bit_ones hm]

/-- Settles O40: every mask of a well-formed table names a bit, and 0xFF has it set. -/
theorem sentinelBytesAreInterpretedAsData : Obligations.SentinelBytesAreInterpretedAsData := by
  intro t f ⟨_, _, _, hannun, hdp, hbar⟩
  have ⟨_, hmasks, _⟩ := hannun
  refine ⟨fun e he h => ?annun, fun p h => ?point, fun j h => ?bar, fun h => ?sign,
    fun i o ho h => ?digit, fun h5 h6 => ?unit, fun h3 h4 => ?pref⟩
  case annun => rw [annunciator_interpretFn f hannun he, bitTest_ones (hmasks e he) h]
  case point =>
    obtain ⟨_, _, hmask, _⟩ := hdp p
    rw [decimalPoint_eq, bitTest_ones hmask h]
  case bar => rw [bargraph_eq, bitTest_ones (hbar j) h]
  case sign =>
    show signOf f = .positive
    rw [signOf, h]; rfl
  case digit =>
    show (digitsOf t f)[i] = _
    rw [digitsOf_get t f i o ho, h]; rfl
  case unit =>
    show unitOf t f = _
    rw [unitOf, h5, h6]; rfl
  case pref =>
    show prefixOf t f = _
    rw [prefixOf, h3, h4]; rfl

/-! ## The readings the source requires -/

/-- A digit whose byte is the key of a character of the table. -/
theorem digit_of_mem (hseg : t.SegOk) {i : Fin 7} {o : Offset} {c : Char} (ho : o.val = 15 - i.val)
    (hmem : (f[o], c) ∈ t.seg) : (interpretFn t f).digits[i] = c := by
  obtain ⟨_, hnodup, hclear, _⟩ := hseg
  have hkey : f[o] &&& 0xF7#8 = f[o] := segmentKey_of_clear _ (hclear _ hmem)
  show (digitsOf t f)[i] = c
  rw [digitsOf_get t f i o ho, hkey, lookup_of_mem hnodup hmem]

/-- The reading of the source's section 8, most significant first. -/
def requiredReading : Vector Char 7 := #v['1', '2', '3', '4', '5', '6', '7']

/-- The digit bytes of a snapshot hold keys of the required reading. -/
def HoldsRequiredReading (t : Tables) (f : Snapshot) : Prop :=
  ∀ (i : Fin 7) (o : Offset), o.val = 15 - i.val → (f[o], requiredReading[i]) ∈ t.seg

theorem digits_of_requiredReading (hseg : t.SegOk) (h : HoldsRequiredReading t f) :
    (interpretFn t f).digits = requiredReading :=
  Vector.ext fun i hi => digit_of_mem hseg (i := ⟨i, hi⟩) (o := ⟨15 - i, by omega⟩) rfl
    (h ⟨i, hi⟩ _ rfl)

theorem requiredReading_mem :
    ∀ i : Fin 7, requiredReading[i] ∈ ['1', '2', '3', '4', '5', '6', '7'] := by
  decide

/-- Of the single bits only REM's own is set in 0x02. -/
theorem bit_rem_dark {m : Byte} (hm : isSingleBit m = true) (hne : m ≠ 0x02#8) :
    bit 0x02#8 m = false := by
  revert m; decide

/-- A decimal point lies in a digit byte, where consistency (R46) keeps it off the key's bits, or in
offset 16, where it is not REM's bit (R44). -/
theorem points_dark (hdp : t.DpOk) (hcons : t.ConsistentWithS8) (h16 : f[16] = 0x02#8)
    (h : HoldsRequiredReading t f) (p : Fin 7) : (interpretFn t f).decimalPoints[p] = false := by
  obtain ⟨hlow, hhigh, hmask, hne⟩ := hdp p
  rw [decimalPoint_eq, bitTest]
  by_cases hdigit : t.dp[p].offset.val ≤ 15
  · have hindex : 15 - t.dp[p].offset.val < 7 := by omega
    have hmem := h ⟨_, hindex⟩ t.dp[p].offset (by simp only []; omega)
    rw [bit, hcons p hlow hdigit _ hmem (requiredReading_mem _)]
    decide
  · have hoffset : t.dp[p].offset = 16 := Fin.ext (by omega : _ = 16)
    have hmask' : t.dp[p].mask ≠ 0x02#8 := fun heq => hne (by rw [← hoffset, ← heq])
    rw [hoffset]
    exact (congrArg (bit · _) h16).trans (bit_rem_dark hmask hmask')

/-- Settles O39: the reading digit by digit, the points by R44 and R46, the two codes by R41. -/
theorem requiredEndToEndReadings : Obligations.RequiredEndToEndReadings := by
  intro t f ⟨hseg, hunit, _, hannun, hdp, _⟩ hcons
  refine ⟨fun h16 h15 h14 h13 h12 h11 h10 h9 => ?reading, fun h5 h6 => ?volt, fun h5 h6 => ?omega⟩
  case reading =>
    have hreads : HoldsRequiredReading t f := by
      intro i o ho
      rw [show o = ⟨15 - i.val, by omega⟩ from Fin.ext ho]
      match i with
      | 0 => exact h15
      | 1 => exact h14
      | 2 => exact h13
      | 3 => exact h12
      | 4 => exact h11
      | 5 => exact h10
      | 6 => exact h9
    refine ⟨?_, ?_, by rw [digits_of_requiredReading hseg hreads]; rfl,
      points_dark hdp hcons h16 hreads⟩
    · rw [annunciator_rem_bit hannun, h16]; rfl
    · show signOf f = .noSign
      rw [signOf, h16]; rfl
  case volt =>
    have hglyph : (interpretFn t f).unitGlyph = .literal 'V' := by
      show unitOf t f = _
      rw [unitOf, h5, h6]
      exact unitResult_volt hunit
    rw [hglyph]; rfl
  case omega =>
    have hglyph : (interpretFn t f).unitGlyph = .directive .omega := by
      show unitOf t f = _
      rw [unitOf, h5, h6]
      exact unitResult_omega hunit
    rw [hglyph]
    exact ⟨rfl, rfl⟩

end Sys2Proof.Proofs.DisplayFields
end

section
/-!
PROOFS. Writes to RawFrame (20_memory.md R65, R71; 10_state.md R22): as frames in canonical form are
equal when they read alike, the laws of writing follow from what a read gives after a write.
-/

namespace Sys2Proof.Proofs.FrameWrites

open Sys2Proof.Machine

variable {m : Memory} {p o : Offset} {v w : Byte}

theorem writeByte_writeByte_same (hm : m.wf) :
    writeByte (writeByte m p v) p w = writeByte m p w := by
  refine eq_of_readCell (wf_writeByte p w (wf_writeByte p v hm)) (wf_writeByte p w hm) fun a => ?_
  simp only [writeByte, readCell_writeCell]
  by_cases ha : a = p.val
  · rw [if_pos ha, if_pos ha]
  · rw [if_neg ha, if_neg ha, if_neg ha]

theorem writeByte_writeByte_comm (hm : m.wf) (hne : p ≠ o) :
    writeByte (writeByte m p v) o w = writeByte (writeByte m o w) p v := by
  refine eq_of_readCell (wf_writeByte o w (wf_writeByte p v hm))
    (wf_writeByte p v (wf_writeByte o w hm)) fun a => ?_
  simp only [writeByte, readCell_writeCell]
  by_cases ha : a = p.val
  · have hao : a ≠ o.val := fun h => hne (Fin.ext (ha.symm.trans h))
    rw [if_pos ha, if_neg hao, if_pos ha]
  · rw [if_neg ha, if_neg ha]

theorem writeByte_readByte (hm : m.wf) : writeByte m p (readByte m p) = m := by
  refine eq_of_readCell (wf_writeByte p _ hm) hm fun a => ?_
  rw [writeByte, readCell_writeCell]
  by_cases ha : a = p.val
  · rw [if_pos ha, ha, readByte]
  · rw [if_neg ha]

/-- Settles O44: a write twice is a later write of the same byte. -/
theorem frameWritesAreIdempotentAndUnordered : Obligations.FrameWritesAreIdempotentAndUnordered :=
  fun _ _ _ _ _ hm => ⟨writeByte_writeByte_same hm, writeByte_writeByte_same hm,
    writeByte_writeByte_comm hm, writeByte_readByte hm⟩

end Sys2Proof.Proofs.FrameWrites
end
